-- ==== Sys2Proof/Word.lean ====
section
/-! DEFINITION. The word types of the SPN16 unit: blocks, nibbles, command and output words (R4, R8, R49). -/

namespace Sys2Proof

/-- A 32-bit word: a command word (R49), an `OUTQ` word (R28), `ACC`, `STATUS`, `ERRCMD`. -/
abbrev Word := BitVec 32

/-- A block: "a 16-bit value, an element of GF(2)^16" (R4, R8); bit 0 is the least significant. -/
abbrev Block := BitVec 16

/-- A 4-bit value: a nibble of a block, or an entry of a cipher parameter (R4, R5). -/
abbrev Nibble := BitVec 4

/-- A byte, as the host carries values outside the unit (R37). -/
abbrev Byte := BitVec 8

end Sys2Proof
end

