-- ==== Sys2Proof/Machine/Bits.lean ====
section
/-! DEFINITION. Bit fields: a value put at a bit position of a wider vector. -/

namespace Sys2Proof

/-- The field value `v` at bits `lo` and up of a vector of width `w`, the other bits 0: `v << lo`. Fields are
joined by `|||`, as in the spec's own formulas (R65, R108). -/
def place (w : Nat) {n : Nat} (v : BitVec n) (lo : Nat) : BitVec w := v.setWidth w <<< lo

end Sys2Proof
end

