-- ==== Sys2Proof/Syntax.lean ====
section
/-! DEFINITION. The 24 commands of the unit, one constructor per row of spec/opcode_table.json (R56). -/

namespace Sys2Proof

/-- A data register `x0` to `x7` (R14, R52). -/
abbrev DReg := Fin 8

/-- The three key-index bits of a command word (R56, columns `k`). The value 7 names no key register: the
extra condition `k != 7` of R56 is `Instr.wf`. -/
abbrev KeyField := Fin 8

/-- The value format of the table commands (R54). -/
inductive Fmt where
  /-- suffix `.I`, `f = 0`: the raw integer (R106) -/
  | raw
  /-- suffix `.F`, `f = 1`: the 32-bit floating probability (R107) -/
  | prob
deriving DecidableEq, Repr, Inhabited

/-- A command (R56), with its operands in the order of the assembler (R60). -/
inductive Instr where
  /-- R64 -/
  | init
  /-- R65 -/
  | ldi (rd : DReg) (imm : Block)
  /-- R66 -/
  | xor (rd rs1 rs2 : DReg)
  /-- R67 -/
  | out (rs1 : DReg)
  /-- R68 -/
  | outa
  /-- R78 -/
  | sub (rd rs1 : DReg)
  /-- R79 -/
  | isub (rd rs1 : DReg)
  /-- R80 -/
  | perm (rd rs1 : DReg)
  /-- R81 -/
  | sp (rd rs1 : DReg)
  /-- R82 -/
  | par (rd rs1 : DReg)
  /-- R83 -/
  | dot (rd rs1 rs2 : DReg)
  /-- R91 -/
  | ldk (k : KeyField) (imm : Block)
  /-- R92 -/
  | kclr
  /-- R93 -/
  | round (rd rs1 rs2 : DReg)
  /-- R94 -/
  | rndk (rd rs1 : DReg) (k : KeyField)
  /-- R95 -/
  | enc (rd rs1 : DReg)
  /-- R96 -/
  | isp (rd rs1 : DReg)
  /-- R97 -/
  | decr (rd rs1 rs2 : DReg)
  /-- R110 -/
  | lent (rs1 rs2 : DReg) (f : Fmt)
  /-- R111 -/
  | dent (rs1 rs2 : DReg) (f : Fmt)
  /-- R112 -/
  | lrow (rs1 : DReg) (f : Fmt)
  /-- R113 -/
  | drow (rs1 : DReg) (f : Fmt)
  /-- R114 -/
  | ltab (f : Fmt)
  /-- R115 -/
  | dtab (f : Fmt)
deriving DecidableEq, Repr, Inhabited

end Sys2Proof
end

