-- ==== Sys2Proof/WellFormed.lean ====
section
/-! DEFINITION. Which terms of `Instr` are commands of the unit: the extra conditions of R56. Register numbers
are in range by their type; a key index must be 0 to 6 (R53). -/

namespace Sys2Proof

/-- "A key-index field is legal only with a value 0 to 6" (R53). -/
def KeyField.legal (k : KeyField) : Bool := k.val < 7

/-- The extra condition of each row of R56: `k != 7` in `LDK` and `RNDK`, none elsewhere. -/
def Instr.wf : Instr → Bool
  | .init => true
  | .ldi _ _ => true
  | .xor _ _ _ => true
  | .out _ => true
  | .outa => true
  | .sub _ _ => true
  | .isub _ _ => true
  | .perm _ _ => true
  | .sp _ _ => true
  | .par _ _ => true
  | .dot _ _ _ => true
  | .ldk k _ => KeyField.legal k
  | .kclr => true
  | .round _ _ _ => true
  | .rndk _ _ k => KeyField.legal k
  | .enc _ _ => true
  | .isp _ _ => true
  | .decr _ _ _ => true
  | .lent _ _ _ => true
  | .dent _ _ _ => true
  | .lrow _ _ => true
  | .drow _ _ => true
  | .ltab _ => true
  | .dtab _ => true

end Sys2Proof
end

