-- ==== Sys2Proof/Decode.lean ====
section
/-! DEFINITION. The decoder (R57, R58), the encoder (R50, R51, R56) and the opcode map as the spec tabulates it
(R56). Decoding is total and depends on no state (R57). -/

namespace Sys2Proof

/-! ## Fields of a command word (R50, R51) -/

/-- Bits 31:24. -/
def opField (w : Word) : BitVec 8 := w.extractLsb' 24 8
/-- Bits 23:20. -/
def rdField (w : Word) : BitVec 4 := w.extractLsb' 20 4
/-- Bits 19:16: `rs1` of format R, `zero` of format I. -/
def rs1Field (w : Word) : BitVec 4 := w.extractLsb' 16 4
/-- Bits 15:12 of format R. -/
def rs2Field (w : Word) : BitVec 4 := w.extractLsb' 12 4
/-- Bits 11:1 of format R, `zero`. -/
def zeroField (w : Word) : BitVec 11 := w.extractLsb' 1 11
/-- Bit 0 of format R, `f`. -/
def fField (w : Word) : BitVec 1 := w.extractLsb' 0 1
/-- Bits 15:0 of format I, used as they stand (R55). -/
def immField (w : Word) : Block := w.extractLsb' 0 16

/-! ## Decoding -/

/-- Why a word is illegal: the cases (a) to (d) of R58. The spec gives them all one fault, `IllegalCmd`; the
names are for the reader. -/
inductive DecodeError where
  /-- (a) `op` is not one of the 24 values -/
  | unassignedOp
  /-- (b) a used register field is 8 to 15 -/
  | registerField
  /-- (c) a key index is 7 to 15 -/
  | keyField
  /-- (d) an unused field, the `zero` field, or `f` of a command without `f`, is not 0 -/
  | unusedField
deriving DecidableEq, Repr

/-- A used register field: legal only with a value 0 to 7 (R52). -/
def regOf (v : BitVec 4) : Except DecodeError DReg :=
  if h : v.toNat < 8 then .ok ⟨v.toNat, h⟩ else .error .registerField

/-- A key-index field: legal only with a value 0 to 6 (R53). -/
def keyOf (v : BitVec 4) : Except DecodeError KeyField :=
  if h : v.toNat < 7 then .ok ⟨v.toNat, by omega⟩ else .error .keyField

/-- A field the command does not use must be 0 (R50, R51, R58 (d)). -/
def unused {n : Nat} (v : BitVec n) : Except DecodeError Unit :=
  if v = 0 then .ok () else .error .unusedField

/-- The format bit (R54). -/
def fmtOf (v : BitVec 1) : Fmt := if v = 0 then .raw else .prob

/-- A command without operands: format R with every field 0. -/
def decode0 (w : Word) (i : Instr) : Except DecodeError Instr := do
  unused (rdField w); unused (rs1Field w); unused (rs2Field w); unused (zeroField w); unused (fField w)
  return i

/-- Operands `rd, rs1`. -/
def decodeDS (w : Word) (c : DReg → DReg → Instr) : Except DecodeError Instr := do
  let rd ← regOf (rdField w)
  let rs1 ← regOf (rs1Field w)
  unused (rs2Field w); unused (zeroField w); unused (fField w)
  return c rd rs1

/-- Operands `rd, rs1, rs2`. -/
def decodeDSS (w : Word) (c : DReg → DReg → DReg → Instr) : Except DecodeError Instr := do
  let rd ← regOf (rdField w)
  let rs1 ← regOf (rs1Field w)
  let rs2 ← regOf (rs2Field w)
  unused (zeroField w); unused (fField w)
  return c rd rs1 rs2

/-- Operands `rd, rs1, k`, the key index in the `rs2` field. -/
def decodeDSK (w : Word) (c : DReg → DReg → KeyField → Instr) : Except DecodeError Instr := do
  let rd ← regOf (rdField w)
  let rs1 ← regOf (rs1Field w)
  let k ← keyOf (rs2Field w)
  unused (zeroField w); unused (fField w)
  return c rd rs1 k

/-- Operand `rs1` alone. -/
def decodeS (w : Word) (c : DReg → Instr) : Except DecodeError Instr := do
  unused (rdField w)
  let rs1 ← regOf (rs1Field w)
  unused (rs2Field w); unused (zeroField w); unused (fField w)
  return c rs1

/-- Operands `rs1, rs2` and a value format. -/
def decodeSSF (w : Word) (c : DReg → DReg → Fmt → Instr) : Except DecodeError Instr := do
  unused (rdField w)
  let rs1 ← regOf (rs1Field w)
  let rs2 ← regOf (rs2Field w)
  unused (zeroField w)
  return c rs1 rs2 (fmtOf (fField w))

/-- Operand `rs1` and a value format. -/
def decodeSF (w : Word) (c : DReg → Fmt → Instr) : Except DecodeError Instr := do
  unused (rdField w)
  let rs1 ← regOf (rs1Field w)
  unused (rs2Field w); unused (zeroField w)
  return c rs1 (fmtOf (fField w))

/-- A value format alone. -/
def decodeF (w : Word) (c : Fmt → Instr) : Except DecodeError Instr := do
  unused (rdField w); unused (rs1Field w); unused (rs2Field w); unused (zeroField w)
  return c (fmtOf (fField w))

/-- `LDI`: format I with a data register. -/
def decodeLdi (w : Word) : Except DecodeError Instr := do
  let rd ← regOf (rdField w)
  unused (rs1Field w)
  return .ldi rd (immField w)

/-- `LDK`: format I with a key index in the `rd` field. -/
def decodeLdk (w : Word) : Except DecodeError Instr := do
  let k ← keyOf (rdField w)
  unused (rs1Field w)
  return .ldk k (immField w)

/-- The command a 32-bit word is, or why it is illegal (R57, R58). -/
def decode (w : Word) : Except DecodeError Instr :=
  match (opField w).toNat with
  | 0x01 => decode0 w .init
  | 0x02 => decodeLdi w
  | 0x03 => decodeDSS w .xor
  | 0x04 => decodeS w .out
  | 0x05 => decode0 w .outa
  | 0x10 => decodeDS w .sub
  | 0x11 => decodeDS w .isub
  | 0x12 => decodeDS w .perm
  | 0x13 => decodeDS w .sp
  | 0x14 => decodeDS w .par
  | 0x15 => decodeDSS w .dot
  | 0x20 => decodeLdk w
  | 0x21 => decode0 w .kclr
  | 0x22 => decodeDSS w .round
  | 0x23 => decodeDSK w .rndk
  | 0x24 => decodeDS w .enc
  | 0x25 => decodeDS w .isp
  | 0x26 => decodeDSS w .decr
  | 0x30 => decodeSSF w .lent
  | 0x31 => decodeSSF w .dent
  | 0x32 => decodeSF w .lrow
  | 0x33 => decodeSF w .drow
  | 0x34 => decodeF w .ltab
  | 0x35 => decodeF w .dtab
  | _ => .error .unassignedOp

/-- The word a host presents for an instruction whose bits are `w`, numbered as spec/opcode_table.json numbers
them: bit 0 is the least significant, bits from `nbits` up are 0. A command word is a bit vector without a byte
order (R37), so nothing is laid out. -/
def tableWord (nbits w : Nat) : Word := BitVec.ofNat 32 (w % 2 ^ nbits)

/-- The instruction the decoder reads from the bits `w` of a row of the opcode table. -/
def decodeTableWord (nbits w : Nat) : Option Instr :=
  match decode (tableWord nbits w) with
  | .ok i => some i
  | .error _ => none

/-! ## Encoding -/

/-- A word of format R (R50), its `zero` field 0. -/
def packR (op : BitVec 8) (rd rs1 rs2 : BitVec 4) (f : BitVec 1) : Word :=
  place 32 op 24 ||| place 32 rd 20 ||| place 32 rs1 16 ||| place 32 rs2 12 ||| place 32 f 0

/-- A word of format I (R51), its `zero` field 0. -/
def packI (op : BitVec 8) (rd : BitVec 4) (imm : Block) : Word :=
  place 32 op 24 ||| place 32 rd 20 ||| place 32 imm 0

/-- The 4-bit field that holds a register number or a key index. -/
def fieldOf (r : Fin 8) : BitVec 4 := BitVec.ofNat 4 r.val

/-- The format bit (R54). -/
def Fmt.bit : Fmt → BitVec 1
  | .raw => 0
  | .prob => 1

/-- The word of a command (R56). -/
def encode : Instr → Word
  | .init => packR 0x01 0 0 0 0
  | .ldi rd imm => packI 0x02 (fieldOf rd) imm
  | .xor rd rs1 rs2 => packR 0x03 (fieldOf rd) (fieldOf rs1) (fieldOf rs2) 0
  | .out rs1 => packR 0x04 0 (fieldOf rs1) 0 0
  | .outa => packR 0x05 0 0 0 0
  | .sub rd rs1 => packR 0x10 (fieldOf rd) (fieldOf rs1) 0 0
  | .isub rd rs1 => packR 0x11 (fieldOf rd) (fieldOf rs1) 0 0
  | .perm rd rs1 => packR 0x12 (fieldOf rd) (fieldOf rs1) 0 0
  | .sp rd rs1 => packR 0x13 (fieldOf rd) (fieldOf rs1) 0 0
  | .par rd rs1 => packR 0x14 (fieldOf rd) (fieldOf rs1) 0 0
  | .dot rd rs1 rs2 => packR 0x15 (fieldOf rd) (fieldOf rs1) (fieldOf rs2) 0
  | .ldk k imm => packI 0x20 (fieldOf k) imm
  | .kclr => packR 0x21 0 0 0 0
  | .round rd rs1 rs2 => packR 0x22 (fieldOf rd) (fieldOf rs1) (fieldOf rs2) 0
  | .rndk rd rs1 k => packR 0x23 (fieldOf rd) (fieldOf rs1) (fieldOf k) 0
  | .enc rd rs1 => packR 0x24 (fieldOf rd) (fieldOf rs1) 0 0
  | .isp rd rs1 => packR 0x25 (fieldOf rd) (fieldOf rs1) 0 0
  | .decr rd rs1 rs2 => packR 0x26 (fieldOf rd) (fieldOf rs1) (fieldOf rs2) 0
  | .lent rs1 rs2 f => packR 0x30 0 (fieldOf rs1) (fieldOf rs2) f.bit
  | .dent rs1 rs2 f => packR 0x31 0 (fieldOf rs1) (fieldOf rs2) f.bit
  | .lrow rs1 f => packR 0x32 0 (fieldOf rs1) 0 f.bit
  | .drow rs1 f => packR 0x33 0 (fieldOf rs1) 0 f.bit
  | .ltab f => packR 0x34 0 0 0 f.bit
  | .dtab f => packR 0x35 0 0 0 f.bit

/-! ## The opcode map of R56

A second reading of the encoding, by `match` and `mask`. `decode` is the model's decoder; that the two agree is a
statement for the provers. -/

/-- `rd = w[22:20]`, `rs1 = w[18:16]`, `rs2 = w[14:12]` (R56, field positions). -/
def threeBits (w : Word) (lo : Nat) : Fin 8 := (w.extractLsb' lo 3).toFin

/-- One row of the map of R56: a word `w` selects it when `(w AND mask) = value` and the extra condition holds. -/
structure OpcodeRow where
  value : Word
  mask : Word
  extra : Word → Bool
  command : Word → Instr

/-- The row is selected by the word (R56). -/
def OpcodeRow.selects (r : OpcodeRow) (w : Word) : Bool := (w &&& r.mask == r.value) && r.extra w

/-- The 24 rows of R56, in its order, with the field positions of its last paragraph. -/
def opcodeMap : List OpcodeRow :=
  let rd := fun w : Word => threeBits w 20
  let rs1 := fun w : Word => threeBits w 16
  let rs2 := fun w : Word => threeBits w 12
  let imm16 := fun w : Word => w.extractLsb' 0 16
  let f := fun w : Word => if w.getLsbD 0 then Fmt.prob else Fmt.raw
  let always := fun _ : Word => true
  [ ⟨0x01000000, 0xFFFFFFFF, always, fun _ => .init⟩,
    ⟨0x02000000, 0xFF8F0000, always, fun w => .ldi (rd w) (imm16 w)⟩,
    ⟨0x03000000, 0xFF888FFF, always, fun w => .xor (rd w) (rs1 w) (rs2 w)⟩,
    ⟨0x04000000, 0xFFF8FFFF, always, fun w => .out (rs1 w)⟩,
    ⟨0x05000000, 0xFFFFFFFF, always, fun _ => .outa⟩,
    ⟨0x10000000, 0xFF88FFFF, always, fun w => .sub (rd w) (rs1 w)⟩,
    ⟨0x11000000, 0xFF88FFFF, always, fun w => .isub (rd w) (rs1 w)⟩,
    ⟨0x12000000, 0xFF88FFFF, always, fun w => .perm (rd w) (rs1 w)⟩,
    ⟨0x13000000, 0xFF88FFFF, always, fun w => .sp (rd w) (rs1 w)⟩,
    ⟨0x14000000, 0xFF88FFFF, always, fun w => .par (rd w) (rs1 w)⟩,
    ⟨0x15000000, 0xFF888FFF, always, fun w => .dot (rd w) (rs1 w) (rs2 w)⟩,
    ⟨0x20000000, 0xFF8F0000, fun w => rd w != 7, fun w => .ldk (rd w) (imm16 w)⟩,
    ⟨0x21000000, 0xFFFFFFFF, always, fun _ => .kclr⟩,
    ⟨0x22000000, 0xFF888FFF, always, fun w => .round (rd w) (rs1 w) (rs2 w)⟩,
    ⟨0x23000000, 0xFF888FFF, fun w => rs2 w != 7, fun w => .rndk (rd w) (rs1 w) (rs2 w)⟩,
    ⟨0x24000000, 0xFF88FFFF, always, fun w => .enc (rd w) (rs1 w)⟩,
    ⟨0x25000000, 0xFF88FFFF, always, fun w => .isp (rd w) (rs1 w)⟩,
    ⟨0x26000000, 0xFF888FFF, always, fun w => .decr (rd w) (rs1 w) (rs2 w)⟩,
    ⟨0x30000000, 0xFFF88FFE, always, fun w => .lent (rs1 w) (rs2 w) (f w)⟩,
    ⟨0x31000000, 0xFFF88FFE, always, fun w => .dent (rs1 w) (rs2 w) (f w)⟩,
    ⟨0x32000000, 0xFFF8FFFE, always, fun w => .lrow (rs1 w) (f w)⟩,
    ⟨0x33000000, 0xFFF8FFFE, always, fun w => .drow (rs1 w) (f w)⟩,
    ⟨0x34000000, 0xFFFFFFFE, always, fun w => .ltab (f w)⟩,
    ⟨0x35000000, 0xFFFFFFFE, always, fun w => .dtab (f w)⟩ ]

end Sys2Proof
end

