-- ==== Sys2Proof/Config.lean ====
section
/-! DEFINITION. The cipher parameters of one unit (R5) and the values the spec leaves open, as constants
without a body. -/

namespace Sys2Proof

/-- The three open parameters of R5, constant for the life of one unit: the forward S-box, its inverse and the
bit permutation (`perm[i]` is the bit position to which input bit `i` moves). They need not be valid (R6): an
invalid triple makes `INIT` fault. -/
structure Params where
  sbox : Vector Nibble 16
  sboxInv : Vector Nibble 16
  perm : Vector Nibble 16
deriving DecidableEq, Repr, Inhabited

/-- The parameters of the unit as it leaves reset. The spec gives none of their values (R5, I1), so this
constant has no body: DESIGN CHOICE, safe, log 1. -/
opaque Config.params : Params

/-- Entry `i` of `SPTAB` while its contents are unspecified (R26, I3): a free value. DESIGN CHOICE, safe, log 5. -/
opaque Config.unspecifiedSptab : Block → Block

/-- Entry `i` of `PARTAB` while its contents are unspecified (R26, I3): a free value. DESIGN CHOICE, safe, log 5. -/
opaque Config.unspecifiedPartab : Block → Bool

/-- The value of key register `k` after the `n`-th `KCLR` that unloaded a key (R92: "`K[k]` becomes
unspecified"): a free value. DESIGN CHOICE, safe, log 7. -/
opaque Config.unspecifiedKey : Nat → Fin 7 → Block

/-- What the bit permutation makes of a block under a `PERM` that is no involution (R6, R72): a free value. No unit
with such a `PERM` becomes ready. DESIGN CHOICE, safe, log 8. -/
opaque Config.openPermutation : Params → Block → Block

end Sys2Proof
end

