-- ==== Sys2Proof/Machine/State.lean ====
section
/-! DEFINITION. The complete state of one unit (R13); the machine that a step acts on, which is that state with the
unit's constants (R27) and the host's side of its interface (R144); and the state after reset (R30, R146). -/

namespace Sys2Proof.Machine

/-- Why a step would end the machine. The spec gives every command word in every state exactly one outcome and
no behaviour is undefined (93_implementation_defined.md, part 1), and its own fault is a next state (R137):
nothing raises a `Fault`, so the type has no constructor (safe, log 12). -/
inductive Fault where
deriving DecidableEq, Repr

/-- Why a step would be turned away. -/
inductive Refusal where
  /-- Raised by an arm of `exec` whose command has no meaning yet: no arm is such, so nothing raises it (safe). -/
  | notModelled (mnemonic : String)
deriving DecidableEq, Repr

/-- The causes of the unit's one fault (R130). Their codes are `Cause.code`. -/
inductive Cause where
  /-- R131 -/
  | cfgInvalid
  /-- R132 -/
  | illegalCmd
  /-- R133 -/
  | notReady
  /-- R134 -/
  | keyInvalid
  /-- R135 -/
  | keyLocked
deriving DecidableEq, Repr

/-- What the host can do to the unit, exhaustively (R144). -/
inductive HostAction where
  /-- (1) assert reset -/
  | reset
  /-- (2) present a command word -/
  | command (w : Word)
  /-- (3) read `STATUS` -/
  | readStatus
  /-- (4) read `ERRCMD` -/
  | readErrcmd
  /-- (5) remove the front word of `OUTQ` -/
  | popOut
deriving DecidableEq, Repr

/-- What the host has got from the unit by one action. -/
inductive HostSeen where
  /-- the value of `STATUS` it read -/
  | status (w : Word)
  /-- the value of `ERRCMD` it read -/
  | errcmd (w : Word)
  /-- the word it removed from `OUTQ` -/
  | word (w : Word)
deriving DecidableEq, Repr

/-- The contents of `SPTAB` (R24): all 65536 entries at once, since only `INIT` writes the table and writes all
of it (R33). "A model may therefore represent the tables by the functions themselves" (R26): DEDUCED, safe, log 4.
`readSptab` reads an entry. -/
inductive SpTab where
  /-- before the first successful `INIT` since reset: unspecified (R26) -/
  | unspecified
  /-- entry `i` is `SPf(i)` under these parameters (R64) -/
  | built (p : Params)
deriving DecidableEq, Repr

/-- The contents of `PARTAB` (R25), as `SpTab`: DEDUCED, safe, log 4. -/
inductive ParTab where
  /-- before the first successful `INIT` since reset: unspecified (R26) -/
  | unspecified
  /-- entry `i` is `par(i)` (R64) -/
  | built
deriving DecidableEq, Repr

/-- The complete state of one SPN16 unit: exactly the components of the table of R13, "and nothing else". -/
structure UnitState where
  /-- data registers `x0` to `x7` (R14) -/
  x : Vector Block 8
  /-- the accumulator (R16) -/
  acc : Word
  /-- key registers `K[0]` to `K[6]` (R17) -/
  k : Vector Block 7
  /-- `KVALID[0..6]` (R18) -/
  kvalid : Vector Bool 7
  /-- R22 -/
  ready : Bool
  /-- R23 -/
  fault : Bool
  /-- R130; 0 while `fault` is false -/
  errcode : BitVec 4
  /-- R21 -/
  errcmd : Word
  /-- R24 -/
  sptab : SpTab
  /-- R25 -/
  partab : ParTab
  /-- the output queue, front first (R28) -/
  outq : List Word
deriving DecidableEq, Repr

/-- What a step acts on: the unit's state (R13) and, beside it and no part of it, what a run of the unit also
depends on (log 18): the constants of the unit, and three fields of the model's own. -/
structure State extends UnitState where
  /-- the read-only cipher parameters (R5, R27): "constants, not state" (R13), no step changes them (log 1) -/
  params : Params
  /-- the model's own: the host's actions still to come, first first (R144; log 2) -/
  input : List HostAction
  /-- the model's own: what the host has read or removed, first first (log 3) -/
  seen : List HostSeen
  /-- the model's own: how often `KCLR` has drawn unspecified key values (log 7) -/
  freeCount : Nat
deriving DecidableEq, Repr

/-- The unit right after reset (R30, R146), with nothing presented yet. `k` is unspecified in the spec and holds
zero here (DESIGN CHOICE, unsafe, log 6); `params` is free (log 1). -/
def State.reset : State where
  x := #v[0, 0, 0, 0, 0, 0, 0, 0]
  acc := 0
  k := #v[0, 0, 0, 0, 0, 0, 0]
  kvalid := #v[false, false, false, false, false, false, false]
  ready := false
  fault := false
  errcode := 0
  errcmd := 0
  sptab := .unspecified
  partab := .unspecified
  outq := []
  params := Config.params
  input := []
  seen := []
  freeCount := 0

end Sys2Proof.Machine
end

