-- ==== Sys2Proof/Machine/Transform.lean ====
section
/-! DEFINITION. The pure functions of the cipher (R70 to R75, R85 to R89) and the validity of its parameters
(R6). -/

namespace Sys2Proof.Machine

/-! ## Cipher parameters (R5, R6) -/

/-- Entry `v` of a 16-entry parameter: every index is in range (R32). -/
def entry16 (t : Vector Nibble 16) (v : Nibble) : Nibble := t[v.toNat]'(by have := v.isLt; omega)

/-- `SBOX[v]`. -/
def sboxAt (p : Params) (v : Nibble) : Nibble := entry16 p.sbox v
/-- `SBOX_INV[v]`. -/
def sboxInvAt (p : Params) (v : Nibble) : Nibble := entry16 p.sboxInv v
/-- `PERM[i]`. -/
def permAt (p : Params) (i : Nibble) : Nibble := entry16 p.perm i

/-- "The permutation is an involution" (R6 (b)). -/
abbrev PermInvolutive (p : Params) : Prop := ∀ i : Fin 16, permAt p (permAt p (BitVec.ofFin i)) = BitVec.ofFin i

/-- `ConfigValid(SBOX, SBOX_INV, PERM)` (R6): the inverse S-box undoes the forward one, and the permutation is
an involution. -/
abbrev ConfigValid (p : Params) : Prop :=
  (∀ v : Fin 16, sboxInvAt p (sboxAt p (BitVec.ofFin v)) = BitVec.ofFin v) ∧ PermInvolutive p

/-! ## Parity and inner product -/

/-- `v[0] XOR ... XOR v[n-1]`. -/
def parUpTo (v : Block) : Nat → Bool
  | 0 => false
  | n + 1 => parUpTo v n ^^ v.getLsbD n

/-- `par(v)`, "popcount(x) mod 2" (R70). -/
def par (v : Block) : Bool := parUpTo v 16

/-- `dot(m, v)`, the GF(2) inner product `mask · x` (R71). -/
def dot (m v : Block) : Bool := par (m &&& v)

/-! ## Substitution, permutation, combined transform -/

/-- Nibble `n` of a block, bits `4n+3:4n` (R8). -/
def nib (v : Block) (n : Nat) : Nibble := v.extractLsb' (4 * n) 4

/-- "Applies the 4-bit S-box independently to each of the four nibbles of a 16-bit value and concatenates
results" (R73). -/
def mapNibbles (g : Nibble → Nibble) (v : Block) : Block :=
  place 16 (g (nib v 3)) 12 ||| place 16 (g (nib v 2)) 8 ||| place 16 (g (nib v 1)) 4 ||| place 16 (g (nib v 0)) 0

/-- `S16(v)`, `substitute(x, forward_sbox)` (R73). -/
def s16 (p : Params) (v : Block) : Block := mapNibbles (sboxAt p) v

/-- `IS16(v)`, `substitute(x, inverse_sbox)` (R73). -/
def is16 (p : Params) (v : Block) : Block := mapNibbles (sboxInvAt p) v

/-- Bits `0` to `n-1` of `v`, each moved to its position `PERM[i]`. -/
def p16UpTo (p : Params) (v : Block) : Nat → Block
  | 0 => 0
  | n + 1 => p16UpTo p v n ^^^ (if v.getLsbD n then 1#16 <<< (permAt p (BitVec.ofNat 4 n)).toNat else 0)

/-- `P16(v)`, `permute_bits`: the block whose bit `PERM[i]` is bit `i` of `v` (R72). The rule fixes no block for a
`PERM` that is no permutation; for one that is no involution, with which no unit becomes ready, the result is a
free value: DESIGN CHOICE, safe, log 8. -/
def p16 (p : Params) (v : Block) : Block := if PermInvolutive p then p16UpTo p v 16 else Config.openPermutation p v

/-- `SPf(v)`, `combined_transform`: substitution first, permutation second (R74). -/
def spf (p : Params) (v : Block) : Block := p16 p (s16 p v)

/-- `ISPf(y)`, the keyless inverse: permutation first, inverse substitution second (R87). -/
def ispf (p : Params) (y : Block) : Block := is16 p (p16 p y)

/-! ## Rounds

`sp` is the combined transform, by formula or by `SPTAB` lookup: the two are equal (R76). -/

/-- `Round(v, key)`: key mixing, then the S-box layer, then the bit permutation (R85). -/
def roundWith (sp : Block → Block) (v key : Block) : Block := sp (v ^^^ key)

/-- Rounds `0` to `n-1` of an encryption, round `i` with key `i`. -/
def roundsUpTo (sp : Block → Block) (key : Nat → Block) (v : Block) : Nat → Block
  | 0 => v
  | n + 1 => roundWith sp (roundsUpTo sp key v n) (key n)

/-- `Enc(v, key[0..6])`, `encrypt_block`: six rounds with keys 0 to 5, then a whitening XOR with key 6 (R86;
90_conflicts.md C2, C4). -/
def encWith (sp : Block → Block) (key : Nat → Block) (v : Block) : Block := roundsUpTo sp key v 6 ^^^ key 6

/-- `DecRound(y, key)`: the inverse of one round, the key XORed after the inverse layers (R88; 90_conflicts.md
C1). -/
def decRound (p : Params) (y key : Block) : Block := ispf p y ^^^ key

/-- Rounds `n-1` down to `0` undone, round `i` with key `i`. -/
def unroundsDownFrom (p : Params) (key : Nat → Block) (y : Block) : Nat → Block
  | 0 => y
  | n + 1 => unroundsDownFrom p key (decRound p y (key n)) n

/-- Full decryption, which is no command but a program of `XOR` and six `DECR` (R89). -/
def decFull (p : Params) (key : Nat → Block) (c : Block) : Block := unroundsDownFrom p key (c ^^^ key 6) 6

end Sys2Proof.Machine
end

