-- ==== Sys2Proof/Machine/Operands.lean ====
section
/-! DEFINITION. Operand forms: what a command reads (R14, R17, R31), and the widenings it applies (R9, R77). -/

namespace Sys2Proof.Machine

/-- `x[r]` (R14). No register is hardwired. -/
def State.readX (s : State) (r : DReg) : Block := s.x[r]

/-- `K[n]` (R17), for `n` in 0 to 6. A command reads it only after its `KVALID` check (R18). -/
def State.readKey (s : State) (n : Nat) : Block := s.k[n]?.getD 0

/-- `KVALID[n]` (R18), for `n` in 0 to 6. -/
def State.keyValid (s : State) (n : Nat) : Bool := s.kvalid[n]?.getD false

/-- All of `KVALID[0..6]` are 1 (R95). -/
def State.allKeysValid (s : State) : Bool := (List.range 7).all s.keyValid

/-- Some `KVALID[k]` is 1. -/
def State.anyKeyValid (s : State) : Bool := (List.range 7).any s.keyValid

/-- `SPTAB[i]` (R24, R26): `SPf(i)` once built, an unspecified value before. -/
def State.readSptab (s : State) (i : Block) : Block :=
  match s.sptab with
  | .unspecified => Config.unspecifiedSptab i
  | .built p => spf p i

/-- `PARTAB[i]` (R25, R26): `par(i)` once built, an unspecified value before. -/
def State.readPartab (s : State) (i : Block) : Bool :=
  match s.partab with
  | .unspecified => Config.unspecifiedPartab i
  | .built => par i

/-- `zext_32(v)` of a block (R9). -/
def zext32 (v : Block) : Word := v.setWidth 32

/-- A 1-bit result zero-extended to 16 bits, `{15 zero bits, b}` (R77, R82). -/
def bitBlock (b : Bool) : Block := (BitVec.ofBool b).setWidth 16

end Sys2Proof.Machine
end

