-- ==== Sys2Proof/Machine/Flags.lean ====
section
/-! DEFINITION. The fault codes (R130) and the `STATUS` word (R20). There are no condition codes (R20). -/

namespace Sys2Proof.Machine

/-- `ERRCODE` of a cause (R130). -/
def Cause.code : Cause → BitVec 4
  | .cfgInvalid => 1
  | .illegalCmd => 2
  | .notReady => 3
  | .keyInvalid => 4
  | .keyLocked => 5

/-- `KVALID[0]` to `KVALID[n-1]` as a field of `STATUS`: bit `k` is `KVALID[k]` (R20). -/
def State.kvalidUpTo (s : State) : Nat → BitVec 7
  | 0 => 0
  | n + 1 => s.kvalidUpTo n ||| place 7 (BitVec.ofBool (s.keyValid n)) n

/-- `STATUS` (R20): reserved bits 31:20, `ERRCODE` 19:16, reserved bit 15, `KVALID` 14:8, reserved bits 7:2,
`FAULT` bit 1, `READY` bit 0; reserved bits read as 0. -/
def State.status (s : State) : Word :=
  place 32 s.errcode 16 ||| place 32 (s.kvalidUpTo 7) 8 ||| place 32 (BitVec.ofBool s.fault) 1 |||
    place 32 (BitVec.ofBool s.ready) 0

end Sys2Proof.Machine
end

