-- ==== Sys2Proof/Machine/Ops.lean ====
section
/-! DEFINITION. The named operations over the state: writing registers, keys, tables and the queue; taking the
unit's fault and leaving it; the common execution template of every command; the host's five actions. -/

namespace Sys2Proof.Machine

/-! ## Writes -/

/-- `x[r] <- v` (R14). -/
def State.writeX (s : State) (r : DReg) (v : Block) : State := { s with x := s.x.set r.val v r.isLt }

/-- `ACC <- w` (R16). -/
def State.setAcc (s : State) (w : Word) : State := { s with acc := w }

/-- `emit` of a list of words, in order, at the back of `OUTQ` (R9, R28, R42). -/
def State.emit (s : State) (ws : List Word) : State := { s with outq := s.outq ++ ws }

/-- `K[n] <- v ; KVALID[n] <- 1` (R91), for `n` in 0 to 6. -/
def State.loadKey (s : State) (n : Nat) (v : Block) : State :=
  { s with k := s.k.setIfInBounds n v, kvalid := s.kvalid.setIfInBounds n true }

/-- Unload the whole key set (R92): all `KVALID` to 0, and each key that was loaded becomes unspecified, a fresh
free value of `Config.unspecifiedKey` (log 7). With no key loaded nothing changes. -/
def State.unloadKeys (s : State) : State :=
  { s with
    k := Vector.ofFn fun j => if s.kvalid[j] then Config.unspecifiedKey s.freeCount j else s.k[j]
    kvalid := Vector.replicate 7 false
    freeCount := if s.anyKeyValid then s.freeCount + 1 else s.freeCount }

/-- Every entry of both tables written, `SPTAB[i] <- SPf(i)` and `PARTAB[i] <- par(i)`, then `READY <- 1` (R64). -/
def State.buildTables (s : State) : State :=
  { s with sptab := .built s.params, partab := .built, ready := true }

/-! ## The fault: entry and leaving -/

/-- Fault entry, `raise <Fault>(w)`: `FAULT`, `ERRCODE` and `ERRCMD` are written and nothing else changes (R137). -/
def State.raise (s : State) (c : Cause) (w : Word) : State :=
  { s with fault := true, errcode := c.code, errcmd := w }

/-- Reset, the only way out of the faulted state (R138, R146): every piece of the unit's state takes the value of
R30. The parameters are unchanged; what the host still has to say and has already seen is the host's (R147), and
the count of free values goes on (log 7). -/
def State.hostReset (s : State) : State :=
  { State.reset with params := s.params, input := s.input, seen := s.seen, freeCount := s.freeCount }

/-! ## The common execution template (R63) -/

/-- The commands that fault with `NotReady` while `READY = 0` (R22). -/
def needsReady : Instr → Bool
  | .init => false
  | .ldi _ _ => false
  | .xor _ _ _ => false
  | .out _ => false
  | .outa => false
  | .sub _ _ => true
  | .isub _ _ => true
  | .perm _ _ => true
  | .sp _ _ => true
  | .par _ _ => true
  | .dot _ _ _ => true
  | .ldk _ _ => false
  | .kclr => false
  | .round _ _ _ => true
  | .rndk _ _ _ => true
  | .enc _ _ => true
  | .isp _ _ => true
  | .decr _ _ _ => true
  | .lent _ _ _ => true
  | .dent _ _ _ => true
  | .lrow _ _ => true
  | .drow _ _ => true
  | .ltab _ => true
  | .dtab _ => true

/-- Steps 1 to 3 of R63, in their order, then `body`, which is steps 4 and 5 of the command. The command word
recorded by a fault is `encode i`: a legal word is the encoding of its command (log 17). -/
def State.runCommand (s : State) (i : Instr) (body : State → State) : State :=
  if s.fault then s
  else if !i.wf then s.raise .illegalCmd (encode i)
  else if needsReady i && !s.ready then s.raise .notReady (encode i)
  else body s

/-- An illegal word (R58): steps 1 and 2 of R63. -/
def State.runIllegal (s : State) (w : Word) : State := if s.fault then s else s.raise .illegalCmd w

/-! ## The host's other actions (R144) -/

/-- The next action of the host and the state in which it is carried out; none when the host does nothing. -/
def State.nextAction (s : State) : Option (HostAction × State) :=
  match s.input with
  | [] => none
  | a :: rest => some (a, { s with input := rest })

/-- The action is put before all others that wait. -/
def State.present (s : State) (a : HostAction) : State := { s with input := a :: s.input }

/-- The host gets something from the unit. -/
def State.record (s : State) (e : HostSeen) : State := { s with seen := s.seen ++ [e] }

/-- Read `STATUS`: no side effect on the unit (R20). -/
def State.hostReadStatus (s : State) : State := s.record (.status s.status)

/-- Read `ERRCMD`: no side effect on the unit (R21, 92_eei_decisions.md D28). -/
def State.hostReadErrcmd (s : State) : State := s.record (.errcmd s.errcmd)

/-- Remove the front word of `OUTQ`, "the only effect of the host on it" (R28). On an empty queue nothing is
returned and nothing changes (I10; DESIGN CHOICE, log 11). -/
def State.hostPop (s : State) : State :=
  match s.outq with
  | [] => s
  | w :: rest => { s with outq := rest, seen := s.seen ++ [.word w] }

end Sys2Proof.Machine
end

