-- ==== Sys2Proof/Machine/Cipher.lean ====
section
/-! DEFINITION. Round function, encryption, keys: `LDK`, `KCLR`, `ROUND`, `RNDK`, `ENC`, `ISP`, `DECR` (R91 to
R97). -/

namespace Sys2Proof.Machine

/-- `LDK k, imm16` (R91): a key that is loaded is locked (R135). -/
def execLdk (k : KeyField) (imm : Block) (s : State) : Host.Outcome State Fault Refusal :=
  .next (s.runCommand (.ldk k imm) fun s =>
    if s.keyValid k then s.raise .keyLocked (encode (.ldk k imm)) else s.loadKey k imm)

/-- `KCLR` (R92). -/
def execKclr (s : State) : Host.Outcome State Fault Refusal :=
  .next (s.runCommand .kclr fun s => s.unloadKeys)

/-- `ROUND rd, rs1, rs2` (R93). -/
def execRound (rd rs1 rs2 : DReg) (s : State) : Host.Outcome State Fault Refusal :=
  .next (s.runCommand (.round rd rs1 rs2) fun s =>
    s.writeX rd (roundWith s.readSptab (s.readX rs1) (s.readX rs2)))

/-- `RNDK rd, rs1, k` (R94): an unloaded key faults (R134). -/
def execRndk (rd rs1 : DReg) (k : KeyField) (s : State) : Host.Outcome State Fault Refusal :=
  .next (s.runCommand (.rndk rd rs1 k) fun s =>
    if s.keyValid k then s.writeX rd (roundWith s.readSptab (s.readX rs1) (s.readKey k))
    else s.raise .keyInvalid (encode (.rndk rd rs1 k)))

/-- `ENC rd, rs1` (R95): any unloaded key faults (R134); six rounds, each by table lookup, and the whitening. -/
def execEnc (rd rs1 : DReg) (s : State) : Host.Outcome State Fault Refusal :=
  .next (s.runCommand (.enc rd rs1) fun s =>
    if s.allKeysValid then s.writeX rd (encWith s.readSptab s.readKey (s.readX rs1))
    else s.raise .keyInvalid (encode (.enc rd rs1)))

/-- `ISP rd, rs1` (R96): from the parameters, no inverse table exists. -/
def execIsp (rd rs1 : DReg) (s : State) : Host.Outcome State Fault Refusal :=
  .next (s.runCommand (.isp rd rs1) fun s => s.writeX rd (ispf s.params (s.readX rs1)))

/-- `DECR rd, rs1, rs2` (R97). -/
def execDecr (rd rs1 rs2 : DReg) (s : State) : Host.Outcome State Fault Refusal :=
  .next (s.runCommand (.decr rd rs1 rs2) fun s =>
    s.writeX rd (decRound s.params (s.readX rs1) (s.readX rs2)))

end Sys2Proof.Machine
end

