-- ==== Sys2Proof/Machine/Control.lean ====
section
/-! DEFINITION. Control and data movement: `INIT`, `LDI`, `XOR`, `OUT`, `OUTA` (R64 to R68). -/

namespace Sys2Proof.Machine

/-- `INIT` (R64): a repeat is a no-op; parameters that are not valid fault before any table entry is written
(R131); otherwise both tables are built and the unit is ready. -/
def execInit (s : State) : Host.Outcome State Fault Refusal :=
  .next (s.runCommand .init fun s =>
    if s.ready then s
    else if ConfigValid s.params then s.buildTables
    else s.raise .cfgInvalid (encode .init))

/-- `LDI rd, imm16` (R65). -/
def execLdi (rd : DReg) (imm : Block) (s : State) : Host.Outcome State Fault Refusal :=
  .next (s.runCommand (.ldi rd imm) fun s => s.writeX rd imm)

/-- `XOR rd, rs1, rs2` (R66). -/
def execXor (rd rs1 rs2 : DReg) (s : State) : Host.Outcome State Fault Refusal :=
  .next (s.runCommand (.xor rd rs1 rs2) fun s => s.writeX rd (s.readX rs1 ^^^ s.readX rs2))

/-- `OUT rs1` (R67). -/
def execOut (rs1 : DReg) (s : State) : Host.Outcome State Fault Refusal :=
  .next (s.runCommand (.out rs1) fun s => s.emit [zext32 (s.readX rs1)])

/-- `OUTA` (R68). -/
def execOuta (s : State) : Host.Outcome State Fault Refusal :=
  .next (s.runCommand .outa fun s => s.emit [s.acc])

end Sys2Proof.Machine
end

