-- ==== Sys2Proof/Machine/Primitives.lean ====
section
/-! DEFINITION. The SPN primitives: `SUB`, `ISUB`, `PERM`, `SP`, `PAR`, `DOT` (R78 to R83). `SUB`, `ISUB` and
`PERM` read the parameters, `SP`, `PAR` and `DOT` the tables (92_eei_decisions.md D26). -/

namespace Sys2Proof.Machine

/-- `SUB rd, rs1` (R78). -/
def execSub (rd rs1 : DReg) (s : State) : Host.Outcome State Fault Refusal :=
  .next (s.runCommand (.sub rd rs1) fun s => s.writeX rd (s16 s.params (s.readX rs1)))

/-- `ISUB rd, rs1` (R79). -/
def execIsub (rd rs1 : DReg) (s : State) : Host.Outcome State Fault Refusal :=
  .next (s.runCommand (.isub rd rs1) fun s => s.writeX rd (is16 s.params (s.readX rs1)))

/-- `PERM rd, rs1` (R80). -/
def execPerm (rd rs1 : DReg) (s : State) : Host.Outcome State Fault Refusal :=
  .next (s.runCommand (.perm rd rs1) fun s => s.writeX rd (p16 s.params (s.readX rs1)))

/-- `SP rd, rs1`, by table lookup (R81). -/
def execSp (rd rs1 : DReg) (s : State) : Host.Outcome State Fault Refusal :=
  .next (s.runCommand (.sp rd rs1) fun s => s.writeX rd (s.readSptab (s.readX rs1)))

/-- `PAR rd, rs1`, by table lookup (R82). -/
def execPar (rd rs1 : DReg) (s : State) : Host.Outcome State Fault Refusal :=
  .next (s.runCommand (.par rd rs1) fun s => s.writeX rd (bitBlock (s.readPartab (s.readX rs1))))

/-- `DOT rd, rs1, rs2`, by table lookup (R83). -/
def execDot (rd rs1 rs2 : DReg) (s : State) : Host.Outcome State Fault Refusal :=
  .next (s.runCommand (.dot rd rs1 rs2) fun s =>
    s.writeX rd (bitBlock (s.readPartab (s.readX rs1 &&& s.readX rs2))))

end Sys2Proof.Machine
end

