-- ==== Sys2Proof/Machine/Probability.lean ====
section
/-! DEFINITION. The pure functions of the probability table generator (R99 to R109). `sp` and `pa` are the two
tables as functions, by formula or by lookup (R76, R99). -/

namespace Sys2Proof.Machine

/-- All 65536 blocks in ascending order, the enumeration of every sum and row (R4, R99, R108). -/
@[irreducible] def blocks : List Block := (List.range 65536).map (BitVec.ofNat 16)

/-! ## Entries -/

/-- The summand of R99 is 1: the input parity and the output parity differ at `t`. -/
def disagrees (sp : Block → Block) (pa : Block → Bool) (a b t : Block) : Bool :=
  pa (a &&& t) ^^ pa (b &&& sp t)

/-- `LC(a, b)`, the signed correlation sum of input mask `a` and output mask `b` (R99; 90_conflicts.md C5). -/
def lc (sp : Block → Block) (pa : Block → Bool) (a b : Block) : Int :=
  65536 - 2 * (blocks.countP (disagrees sp pa a b) : Int)

/-- `DC(a, b)`, the number of inputs at which input difference `a` gives output difference `b` (R102). -/
def dc (sp : Block → Block) (a b : Block) : Nat :=
  blocks.countP fun t => sp t ^^^ sp (t ^^^ a) == b

/-! ## 32-bit floating probabilities (R107)

The probability is the exact rational `num / 2^k`. With `e` the integer with `2^e <= q < 2^(e+1)`, `e + k` is the
binary logarithm of `num`. -/

/-- `floor(q / 2^e * 2^23)`, the `M` of R107 before rounding. -/
def f32Floor (num : Nat) : Nat := num * 2 ^ 23 / 2 ^ num.log2

/-- The remainder `r` of R107, as a count of `2^(-log2 num)`. -/
def f32Rem (num : Nat) : Nat := num * 2 ^ 23 % 2 ^ num.log2

/-- Round to nearest, ties to the even significand: "if r > 1/2 or (r = 1/2 and M is odd)" (R107). -/
def f32RoundsUp (num : Nat) : Bool :=
  2 * f32Rem num > 2 ^ num.log2 || (2 * f32Rem num == 2 ^ num.log2 && f32Floor num % 2 == 1)

/-- `M` after rounding; it may be `2^24`. -/
def f32Rounded (num : Nat) : Nat := if f32RoundsUp num then f32Floor num + 1 else f32Floor num

/-- `f32(num / 2^k)`, the bit pattern of the binary32 number nearest `num / 2^k`, for a probability 0 or at least
`2^-126` (every probability of the unit is 0 or at least `2^-32`) (R107). -/
def f32 (num k : Nat) : Word :=
  if num = 0 then 0
  else if f32Rounded num = 2 ^ 24 then BitVec.ofNat 32 (num.log2 + 1 + 127 - k) <<< 23
  else (BitVec.ofNat 32 (num.log2 + 127 - k) <<< 23) ||| BitVec.ofNat 32 (f32Rounded num - 2 ^ 23)

/-! ## Values, rows, tables -/

/-- The variant of a table, selected by the opcode (R98). -/
inductive Variant where
  | linear
  | differential
deriving DecidableEq, Repr

/-- The exact integer of entry `(a, b)`: `LC` or `DC`. An entry is stored exactly when it is not 0 (R105). -/
def entryOf (v : Variant) (sp : Block → Block) (pa : Block → Bool) (a b : Block) : Int :=
  match v with
  | .linear => lc sp pa a b
  | .differential => (dc sp a b : Int)

/-- The 32-bit value of an entry whose exact integer is `c`: raw, `sext_32(LC)` or `zext_32(DC)` (R106), or the
probability `LC^2 / 2^32` or `DC / 2^16` (R101, R104, R107). -/
def valueOf (v : Variant) (f : Fmt) (c : Int) : Word :=
  match f, v with
  | .raw, .linear => BitVec.ofInt 32 c
  | .raw, .differential => BitVec.ofNat 32 c.toNat
  | .prob, .linear => f32 (c * c).toNat 32
  | .prob, .differential => f32 c.toNat 16

/-- The `v` bit of a row header (R108). -/
def Variant.bit : Variant → BitVec 1
  | .linear => 0
  | .differential => 1

/-- The header word `0x80000000 | v << 17 | f << 16 | a` of a row (R108). -/
def rowHeader (v : Variant) (f : Fmt) (a : Block) : Word :=
  0x80000000 ||| place 32 v.bit 17 ||| place 32 f.bit 16 ||| place 32 a 0

/-- The end word of a row (R108). -/
def rowEnd : Word := 0xFFFFFFFF

/-- The words entry `(a, b)` puts in its row: none when its integer `c` is 0 (R105), else `b` and its value. -/
def entryWords (v : Variant) (f : Fmt) (b : Block) (c : Int) : List Word :=
  if c = 0 then [] else [b.setWidth 32, valueOf v f c]

/-- `Row(v, f, a)` (R108). -/
def row (v : Variant) (f : Fmt) (sp : Block → Block) (pa : Block → Bool) (a : Block) : List Word :=
  rowHeader v f a :: (blocks.flatMap fun b => entryWords v f b (entryOf v sp pa a b)) ++ [rowEnd]

/-- `Table(v, f)`: the rows of all `a` in ascending order, with nothing before, between or after (R109). -/
def table (v : Variant) (f : Fmt) (sp : Block → Block) (pa : Block → Bool) : List Word :=
  blocks.flatMap (row v f sp pa)

end Sys2Proof.Machine
end

