-- ==== Sys2Proof/Machine/Tables.lean ====
section
/-! DEFINITION. The probability table generator: `LENT`, `DENT`, `LROW`, `DROW`, `LTAB`, `DTAB` (R110 to R115),
by lookups of the two tables (R99, R102). -/

namespace Sys2Proof.Machine

/-- The value of one entry through the unit's tables, zero included (R105). -/
def State.entryValue (s : State) (v : Variant) (f : Fmt) (a b : Block) : Word :=
  valueOf v f (entryOf v s.readSptab s.readPartab a b)

/-- The words of one row through the unit's tables (R108). -/
def State.rowWords (s : State) (v : Variant) (f : Fmt) (a : Block) : List Word :=
  row v f s.readSptab s.readPartab a

/-- The words of a whole table through the unit's tables (R109). -/
def State.tableWords (s : State) (v : Variant) (f : Fmt) : List Word := table v f s.readSptab s.readPartab

/-- `LENT rs1, rs2` (R110). -/
def execLent (rs1 rs2 : DReg) (f : Fmt) (s : State) : Host.Outcome State Fault Refusal :=
  .next (s.runCommand (.lent rs1 rs2 f) fun s => s.setAcc (s.entryValue .linear f (s.readX rs1) (s.readX rs2)))

/-- `DENT rs1, rs2` (R111). -/
def execDent (rs1 rs2 : DReg) (f : Fmt) (s : State) : Host.Outcome State Fault Refusal :=
  .next (s.runCommand (.dent rs1 rs2 f) fun s => s.setAcc (s.entryValue .differential f (s.readX rs1) (s.readX rs2)))

/-- `LROW rs1` (R112). -/
def execLrow (rs1 : DReg) (f : Fmt) (s : State) : Host.Outcome State Fault Refusal :=
  .next (s.runCommand (.lrow rs1 f) fun s => s.emit (s.rowWords .linear f (s.readX rs1)))

/-- `DROW rs1` (R113). -/
def execDrow (rs1 : DReg) (f : Fmt) (s : State) : Host.Outcome State Fault Refusal :=
  .next (s.runCommand (.drow rs1 f) fun s => s.emit (s.rowWords .differential f (s.readX rs1)))

/-- `LTAB` (R114). -/
def execLtab (f : Fmt) (s : State) : Host.Outcome State Fault Refusal :=
  .next (s.runCommand (.ltab f) fun s => s.emit (s.tableWords .linear f))

/-- `DTAB` (R115). -/
def execDtab (f : Fmt) (s : State) : Host.Outcome State Fault Refusal :=
  .next (s.runCommand (.dtab f) fun s => s.emit (s.tableWords .differential f))

end Sys2Proof.Machine
end

