-- ==== Sys2Proof/Machine/Dispatch.lean ====
section
/-! DEFINITION. One arm per command: what executing it does. -/

namespace Sys2Proof.Machine

def exec (i : Instr) (s : State) : Host.Outcome State Fault Refusal :=
  match i with
  | .init => Sys2Proof.Machine.execInit s
  | .ldi rd imm => Sys2Proof.Machine.execLdi rd imm s
  | .xor rd rs1 rs2 => Sys2Proof.Machine.execXor rd rs1 rs2 s
  | .out rs1 => Sys2Proof.Machine.execOut rs1 s
  | .outa => Sys2Proof.Machine.execOuta s
  | .sub rd rs1 => Sys2Proof.Machine.execSub rd rs1 s
  | .isub rd rs1 => Sys2Proof.Machine.execIsub rd rs1 s
  | .perm rd rs1 => Sys2Proof.Machine.execPerm rd rs1 s
  | .sp rd rs1 => Sys2Proof.Machine.execSp rd rs1 s
  | .par rd rs1 => Sys2Proof.Machine.execPar rd rs1 s
  | .dot rd rs1 rs2 => Sys2Proof.Machine.execDot rd rs1 rs2 s
  | .ldk k imm => Sys2Proof.Machine.execLdk k imm s
  | .kclr => Sys2Proof.Machine.execKclr s
  | .round rd rs1 rs2 => Sys2Proof.Machine.execRound rd rs1 rs2 s
  | .rndk rd rs1 k => Sys2Proof.Machine.execRndk rd rs1 k s
  | .enc rd rs1 => Sys2Proof.Machine.execEnc rd rs1 s
  | .isp rd rs1 => Sys2Proof.Machine.execIsp rd rs1 s
  | .decr rd rs1 rs2 => Sys2Proof.Machine.execDecr rd rs1 rs2 s
  | .lent rs1 rs2 f => Sys2Proof.Machine.execLent rs1 rs2 f s
  | .dent rs1 rs2 f => Sys2Proof.Machine.execDent rs1 rs2 f s
  | .lrow rs1 f => Sys2Proof.Machine.execLrow rs1 f s
  | .drow rs1 f => Sys2Proof.Machine.execDrow rs1 f s
  | .ltab f => Sys2Proof.Machine.execLtab f s
  | .dtab f => Sys2Proof.Machine.execDtab f s

end Sys2Proof.Machine
end

