-- ==== Sys2Proof/Machine/Run.lean ====
section
/-! DEFINITION. What each action of the host does (R144), a presented command word among them; the run of a
program (R149). -/

namespace Sys2Proof.Machine

/-- A presented command word: the command it is, or `IllegalCmd` (R57, R58, R63). -/
def runWord (w : Word) (s : State) : Host.Outcome State Fault Refusal :=
  match decode w with
  | .ok i => exec i s
  | .error _ => .next (s.runIllegal w)

/-- "A program is a finite list of command words; its run from a state is the result of executing them in order"
(R149). A word that faults does not end the run: the unit discards the words after it (R63, R138). -/
def runProgram : List Word → State → Host.Outcome State Fault Refusal
  | [], s => .next s
  | w :: ws, s => match runWord w s with
    | .next t => runProgram ws t
    | .fault f => .fault f
    | .refused r => .refused r

/-- One action of the host (R144). -/
def runAction (a : HostAction) (s : State) : Host.Outcome State Fault Refusal :=
  match a with
  | .reset => .next s.hostReset
  | .command w => runWord w s
  | .readStatus => .next s.hostReadStatus
  | .readErrcmd => .next s.hostReadErrcmd
  | .popOut => .next s.hostPop

end Sys2Proof.Machine
end

