-- ==== Sys2Proof/Machine/Step.lean ====
section
/-! DEFINITION. One step of the unit: the next action of the host. The unit has no program counter and fetches
nothing (R19); "a command word is an input" (R48). -/

namespace Sys2Proof.Machine

/-- One step: the host's next action is carried out; with none waiting the unit is idle and "all state survives
idling" (R143; log 2). -/
def step (s : State) : Host.Outcome State Fault Refusal :=
  match s.nextAction with
  | none => .next s
  | some (a, s') => runAction a s'

/-- `s` with the host about to present the command word whose bits are `w`: the very next step runs it. It stands
for the host's presenting a word (R19, R144; log 2). -/
def State.withFetchWord (s : State) (nbits w : Nat) : State := s.present (.command (tableWord nbits w))

end Sys2Proof.Machine
end

