-- ==== Sys2Proof/Machine/Assembly.lean ====
section
/-! DEFINITION. Assembler notation and pseudo-instructions (R60, R61): the spec's way of writing commands, outside
the unit. No step of the unit calls anything here. -/

namespace Sys2Proof.Machine

/-! ## Writing a command -/

/-- The digit a nibble is written as: its distance from `0`, or from ten on its distance above `A`. `hexValue` reads
it back. -/
def hexDigit (v : Nibble) : Char :=
  if v.toNat < 10 then Char.ofNat ('0'.toNat + v.toNat) else Char.ofNat ('A'.toNat + (v.toNat - 10))

/-- `x0` to `x7`. -/
def regText (r : DReg) : List Char := ['x', hexDigit (fieldOf r)]

/-- `k0` to `k6`. -/
def keyText (k : KeyField) : List Char := ['k', hexDigit (fieldOf k)]

/-- `0x` and four hexadecimal digits. -/
def immText (v : Block) : List Char :=
  ['0', 'x', hexDigit (v.extractLsb' 12 4), hexDigit (v.extractLsb' 8 4), hexDigit (v.extractLsb' 4 4),
    hexDigit (v.extractLsb' 0 4)]

/-- The suffix of a table command, `.I` or `.F` (R54, R60). -/
def fmtText : Fmt → List Char
  | .raw => ['.', 'I']
  | .prob => ['.', 'F']

/-- Operands separated by a comma and a space. -/
def operandsText : List (List Char) → List Char
  | [] => []
  | [o] => o
  | o :: os => o ++ [',', ' '] ++ operandsText os

/-- A mnemonic and its operands. -/
def lineText (mnemonic : List Char) (operands : List (List Char)) : List Char :=
  match operands with
  | [] => mnemonic
  | _ :: _ => mnemonic ++ [' '] ++ operandsText operands

/-- The mnemonic with its suffix (R60). -/
def mnemonicText : Instr → List Char
  | .init => "INIT".toList
  | .ldi _ _ => "LDI".toList
  | .xor _ _ _ => "XOR".toList
  | .out _ => "OUT".toList
  | .outa => "OUTA".toList
  | .sub _ _ => "SUB".toList
  | .isub _ _ => "ISUB".toList
  | .perm _ _ => "PERM".toList
  | .sp _ _ => "SP".toList
  | .par _ _ => "PAR".toList
  | .dot _ _ _ => "DOT".toList
  | .ldk _ _ => "LDK".toList
  | .kclr => "KCLR".toList
  | .round _ _ _ => "ROUND".toList
  | .rndk _ _ _ => "RNDK".toList
  | .enc _ _ => "ENC".toList
  | .isp _ _ => "ISP".toList
  | .decr _ _ _ => "DECR".toList
  | .lent _ _ f => "LENT".toList ++ fmtText f
  | .dent _ _ f => "DENT".toList ++ fmtText f
  | .lrow _ f => "LROW".toList ++ fmtText f
  | .drow _ f => "DROW".toList ++ fmtText f
  | .ltab f => "LTAB".toList ++ fmtText f
  | .dtab f => "DTAB".toList ++ fmtText f

/-- The operands in the order of the `operands` column of R56 (R60). -/
def operandTexts : Instr → List (List Char)
  | .init => []
  | .ldi rd imm => [regText rd, immText imm]
  | .xor rd rs1 rs2 => [regText rd, regText rs1, regText rs2]
  | .out rs1 => [regText rs1]
  | .outa => []
  | .sub rd rs1 => [regText rd, regText rs1]
  | .isub rd rs1 => [regText rd, regText rs1]
  | .perm rd rs1 => [regText rd, regText rs1]
  | .sp rd rs1 => [regText rd, regText rs1]
  | .par rd rs1 => [regText rd, regText rs1]
  | .dot rd rs1 rs2 => [regText rd, regText rs1, regText rs2]
  | .ldk k imm => [keyText k, immText imm]
  | .kclr => []
  | .round rd rs1 rs2 => [regText rd, regText rs1, regText rs2]
  | .rndk rd rs1 k => [regText rd, regText rs1, keyText k]
  | .enc rd rs1 => [regText rd, regText rs1]
  | .isp rd rs1 => [regText rd, regText rs1]
  | .decr rd rs1 rs2 => [regText rd, regText rs1, regText rs2]
  | .lent rs1 rs2 _ => [regText rs1, regText rs2]
  | .dent rs1 rs2 _ => [regText rs1, regText rs2]
  | .lrow rs1 _ => [regText rs1]
  | .drow rs1 _ => [regText rs1]
  | .ltab _ => []
  | .dtab _ => []

/-- A command as a line of assembler text (R60). -/
def assemblyLine (i : Instr) : List Char := lineText (mnemonicText i) (operandTexts i)

/-! ## Reading a line -/

/-- An operand of a line (R60). -/
inductive Operand where
  | reg (r : DReg)
  | key (k : KeyField)
  | imm (v : Block)
deriving DecidableEq, Repr

/-- The value of a hexadecimal digit: the nibble that is written with it, in capitals or (log 16) not. -/
def hexValue (digit : Char) : Option Nat :=
  (List.range 16).find? fun n => hexDigit (BitVec.ofNat 4 n) == digit.toUpper

/-- The value of a decimal digit: a hexadecimal digit worth less than ten. -/
def decValue (digit : Char) : Option Nat := (hexValue digit).filter (· < 10)

/-- A number whose digits so far are worth `n`. -/
def digits (base : Nat) (value : Char → Option Nat) (n : Nat) : List Char → Option Nat
  | [] => some n
  | c :: cs => (value c).bind fun d => digits base value (base * n + d) cs

/-- An immediate: `0x` and 1 to 4 hexadecimal digits, or a decimal number 0 to 65535 (R60). -/
def parseImm (cs : List Char) : Option Block :=
  match cs with
  | '0' :: 'x' :: ds =>
    if ds = [] ∨ 4 < ds.length then none else (digits 16 hexValue 0 ds).map (BitVec.ofNat 16)
  | ds =>
    if ds = [] then none
    else (digits 10 decValue 0 ds).bind fun n => if n ≤ 65535 then some (BitVec.ofNat 16 n) else none

/-- An operand: `x0` to `x7`, `k0` to `k6`, or an immediate (R60). -/
def parseOperand (cs : List Char) : Option Operand :=
  match cs with
  | ['x', c] => (decValue c).bind fun n => if h : n < 8 then some (.reg ⟨n, h⟩) else none
  | ['k', c] => (decValue c).bind fun n => if h : n < 7 then some (.key ⟨n, by omega⟩) else none
  | _ => (parseImm cs).map .imm

/-- The text before the comment that `;` starts (R60). -/
def withoutComment (cs : List Char) : List Char := cs.takeWhile (· != ';')

/-- A space or a tabulator. -/
def isBlank (c : Char) : Bool := c == ' ' || c == '\t'

/-- The text without blanks at its ends. -/
def trimBlanks (cs : List Char) : List Char := ((cs.dropWhile isBlank).reverse.dropWhile isBlank).reverse

/-- The parts between commas; no part of an empty text. -/
def splitCommas : List Char → List (List Char)
  | [] => []
  | ',' :: cs => match splitCommas cs with
    | [] => [[], []]
    | p :: ps => [] :: p :: ps
  | c :: cs => match splitCommas cs with
    | [] => [[c]]
    | p :: ps => (c :: p) :: ps

/-- The commands of one data register (R60, R61). -/
def buildD (m : List Char) (rd : DReg) : Option Instr :=
  if m = "OUT".toList then some (.out rd)
  else if m = "LROW.I".toList then some (.lrow rd .raw)
  else if m = "LROW.F".toList then some (.lrow rd .prob)
  else if m = "DROW.I".toList then some (.drow rd .raw)
  else if m = "DROW.F".toList then some (.drow rd .prob)
  else if m = "CLR".toList then some (.ldi rd 0)
  else none

/-- The commands of two data registers. -/
def buildDS (m : List Char) (r1 r2 : DReg) : Option Instr :=
  if m = "SUB".toList then some (.sub r1 r2)
  else if m = "ISUB".toList then some (.isub r1 r2)
  else if m = "PERM".toList then some (.perm r1 r2)
  else if m = "SP".toList then some (.sp r1 r2)
  else if m = "PAR".toList then some (.par r1 r2)
  else if m = "ENC".toList then some (.enc r1 r2)
  else if m = "ISP".toList then some (.isp r1 r2)
  else if m = "LENT.I".toList then some (.lent r1 r2 .raw)
  else if m = "LENT.F".toList then some (.lent r1 r2 .prob)
  else if m = "DENT.I".toList then some (.dent r1 r2 .raw)
  else if m = "DENT.F".toList then some (.dent r1 r2 .prob)
  else none

/-- The commands of three data registers; `KMIX` and `WHITEN` are names of `XOR` (R61). -/
def buildDSS (m : List Char) (r1 r2 r3 : DReg) : Option Instr :=
  if m = "XOR".toList ∨ m = "KMIX".toList ∨ m = "WHITEN".toList then some (.xor r1 r2 r3)
  else if m = "DOT".toList then some (.dot r1 r2 r3)
  else if m = "ROUND".toList then some (.round r1 r2 r3)
  else if m = "DECR".toList then some (.decr r1 r2 r3)
  else none

/-- The commands without operands. -/
def build0 (m : List Char) : Option Instr :=
  if m = "INIT".toList then some .init
  else if m = "OUTA".toList then some .outa
  else if m = "KCLR".toList then some .kclr
  else if m = "LTAB.I".toList then some (.ltab .raw)
  else if m = "LTAB.F".toList then some (.ltab .prob)
  else if m = "DTAB.I".toList then some (.dtab .raw)
  else if m = "DTAB.F".toList then some (.dtab .prob)
  else none

/-- A mnemonic applied to operands (R60, R61). -/
def buildCommand (m : List Char) (ops : List Operand) : Option Instr :=
  match ops with
  | [] => build0 m
  | [.reg r] => buildD m r
  | [.reg r1, .reg r2] => buildDS m r1 r2
  | [.reg r1, .reg r2, .reg r3] => buildDSS m r1 r2 r3
  | [.reg r, .imm v] => if m = "LDI".toList then some (.ldi r v) else none
  | [.key k, .imm v] => if m = "LDK".toList then some (.ldk k v) else none
  | [.reg r1, .reg r2, .key k] => if m = "RNDK".toList then some (.rndk r1 r2 k) else none
  | _ => none

/-- The command one line of assembler text stands for (R60, R61); none when the line is no command. Blanks may
stand around operands (log 16). -/
def assemble (line : List Char) : Option Instr :=
  let text := trimBlanks (withoutComment line)
  let m := text.takeWhile (!isBlank ·)
  let rest := trimBlanks (text.dropWhile (!isBlank ·))
  ((splitCommas rest).mapM fun o => parseOperand (trimBlanks o)).bind (buildCommand m)

end Sys2Proof.Machine
end

