-- ==== Sys2Proof/Machine/HostBytes.lean ====
section
/-! DEFINITION. The byte formats in which the host carries values (R37 to R40). Inside the unit there is no byte
order; these functions are the host's, and no step of the unit calls them. -/

namespace Sys2Proof.Machine

/-- The two bytes of a 16-bit value, `v[7:0]` then `v[15:8]` (R37). -/
def blockBytes (v : Block) : List Byte := [v.extractLsb' 0 8, v.extractLsb' 8 8]

/-- The 16-bit value of two bytes, the first the low one (R37). -/
def blockOfBytes (lo hi : Byte) : Block := place 16 hi 8 ||| place 16 lo 0

/-- The four bytes of a 32-bit word, least significant first (R40). -/
def wordBytes (w : Word) : List Byte :=
  [w.extractLsb' 0 8, w.extractLsb' 8 8, w.extractLsb' 16 8, w.extractLsb' 24 8]

/-- The 32-bit word of four bytes, the first the least significant (R40). -/
def wordOfBytes (b0 b1 b2 b3 : Byte) : Word :=
  place 32 b3 24 ||| place 32 b2 16 ||| place 32 b1 8 ||| place 32 b0 0

/-- Block `j` of a block stream, `b(2j) + 256 * b(2j+1)`, where both bytes are there (R39). Nothing is said of the
last byte of a stream of odd length (91_not_in_source.md N7; log 15). -/
def streamBlock (stream : List Byte) (j : Nat) : Option Block := do
  let lo ← stream[2 * j]?
  let hi ← stream[2 * j + 1]?
  return blockOfBytes lo hi

/-- `key[i] = b(2i) + 256 * b(2i+1)` of the 14 bytes of key material (R38). -/
def materialKey (m : Vector Byte 14) (i : Fin 7) : Block := blockOfBytes m[2 * i.val] m[2 * i.val + 1]

end Sys2Proof.Machine
end

