-- ==== Sys2Proof/Safety.lean ====
section
/-! DEFINITION. The terms in which statements about the unit are made: proper states (R149), what an observer of
a run sees (R149), frames, the table invariant (R26), the record of a fault (R137), and which parts of a state no
one can read (R18, R26, R17). -/

namespace Sys2Proof.Machine

/-! ## Runs (R149) -/

/-- "The end state is proper when `FAULT = 0`, and faulted otherwise" (R149). -/
abbrev State.proper (s : State) : Prop := s.fault = false

/-- The words the host has removed from `OUTQ`, in order. -/
def State.taken (s : State) : List Word :=
  s.seen.filterMap fun e => match e with
    | .word w => some w
    | .status _ => none
    | .errcmd _ => none

/-- Every word emitted to `OUTQ` that has not been lost by a reset, oldest first: those the host has removed, then
those that wait (R28, R42). -/
def State.emitted (s : State) : List Word := s.taken ++ s.outq

/-- The words emitted "during the run" from `start` that has led to `s`, "whether or not the host has removed them
yet" (R149): what has been emitted beyond what `start` already had, removed or waiting. A run is of command words,
with the host's reads and removals between them, and has no reset in it. -/
def State.emittedSince (start s : State) : List Word := s.emitted.drop start.emitted.length

/-- The observable result of a run (R149). -/
structure Observation where
  x : Vector Block 8
  acc : Word
  status : Word
  errcmd : Word
  emitted : List Word
deriving DecidableEq, Repr

/-- What is observable of the run from `start` that has led to `s` (R149). -/
def State.observe (start s : State) : Observation :=
  { x := s.x, acc := s.acc, status := s.status, errcmd := s.errcmd, emitted := start.emittedSince s }

/-- `s` with the host about to present the words of a program, a finite list in issue order (R19, R149). -/
def State.withProgram (s : State) (ws : List Word) : State := { s with input := ws.map .command }

/-- So many steps. -/
def runSteps : Nat → State → Host.Outcome State Fault Refusal
  | 0, s => .next s
  | n + 1, s => match step s with
    | .next t => runSteps n t
    | .fault f => .fault f
    | .refused r => .refused r

/-! ## Frames -/

/-- `t` is `s` but for data register `rd`. -/
def OnlyX (rd : DReg) (s t : State) : Prop := { t with x := s.x } = s ∧ ∀ r, r ≠ rd → t.readX r = s.readX r

/-- `t` is `s` but for `ACC`. -/
def OnlyAcc (s t : State) : Prop := { t with acc := s.acc } = s

/-- `t` is `s` but for the words `ws` at the back of `OUTQ`. -/
def OnlyEmits (ws : List Word) (s t : State) : Prop := { t with outq := s.outq } = s ∧ t.outq = s.outq ++ ws

/-- `t` is `s` but for key register `n` and its `KVALID` bit. -/
def OnlyKey (n : Nat) (s t : State) : Prop :=
  { t with k := s.k, kvalid := s.kvalid } = s ∧
    ∀ m, m ≠ n → t.readKey m = s.readKey m ∧ t.keyValid m = s.keyValid m

/-- `t` is `s` but for `FAULT`, `ERRCODE` and `ERRCMD`, which record cause `c` and command word `w` (R137). -/
def FaultEntered (c : Cause) (w : Word) (s t : State) : Prop :=
  t.fault = true ∧ t.errcode = c.code ∧ t.errcmd = w ∧
    { t with fault := s.fault, errcode := s.errcode, errcmd := s.errcmd } = s

/-- Executing `i` in `s` ends in a next state in which data register `rd` holds `v` and nothing else is
changed. -/
def Yields (i : Instr) (s : State) (rd : DReg) (v : Block) : Prop :=
  ∃ t, exec i s = .next t ∧ t.readX rd = v ∧ OnlyX rd s t

/-- Executing `i` in `s` ends in fault entry with cause `c` and the command word of `i`. -/
def Faults (i : Instr) (s : State) (c : Cause) : Prop := ∃ t, exec i s = .next t ∧ FaultEntered c (encode i) s t

/-! ## Invariants -/

/-- "Whenever `READY = 1`, `SPTAB[i] = SPf(i)` and `PARTAB[i] = par(i)` for every `i` in 0..65535, and
`ConfigValid` holds" (R26). -/
def TablesFrozen (s : State) : Prop :=
  s.ready = true →
    ConfigValid s.params ∧ (∀ i, s.readSptab i = spf s.params i) ∧ ∀ i, s.readPartab i = par i

/-- What the unit's state says of the command word `w` when `w` is recorded with cause `c` (R131 to R135): each
cause with the condition that raised it, which a faulted unit keeps. -/
def CauseHolds (c : Cause) (w : Word) (s : State) : Prop :=
  match c with
  | .cfgInvalid => w = encode .init ∧ s.ready = false ∧ ¬ ConfigValid s.params
  | .illegalCmd => ∃ e, decode w = .error e
  | .notReady => ∃ i, decode w = .ok i ∧ needsReady i = true ∧ s.ready = false
  | .keyInvalid =>
    (∃ rd rs1 k, decode w = .ok (.rndk rd rs1 k) ∧ s.keyValid k = false ∧ s.ready = true) ∨
    (∃ rd rs1 n, decode w = .ok (.enc rd rs1) ∧ n < 7 ∧ s.keyValid n = false ∧ s.ready = true)
  | .keyLocked => ∃ k imm, decode w = .ok (.ldk k imm) ∧ s.keyValid k = true

/-- `ERRCODE` and `ERRCMD` tell the truth: both 0 while there is no fault (R20, R21), and while there is one, a
code of R130 with the word that caused it. -/
def FaultRecorded (s : State) : Prop :=
  (s.fault = false → s.errcode = 0 ∧ s.errcmd = 0) ∧
  (s.fault = true → ∃ c, s.errcode = Cause.code c ∧ CauseHolds c s.errcmd s)

/-- What is true of every state a unit can reach from reset. -/
def State.Sound (s : State) : Prop := TablesFrozen s ∧ FaultRecorded s

/-! ## What cannot be read -/

/-- `s` and `t` differ at most in what the spec calls unreadable: the value of a key register whose `KVALID` is 0
(R18), and the tables while `READY = 0` (R26). -/
def SameReadable (s t : State) : Prop :=
  { t with k := s.k, sptab := s.sptab, partab := s.partab } = s ∧
    (∀ n, s.keyValid n = true → s.readKey n = t.readKey n) ∧
    (s.ready = true → s.sptab = t.sptab ∧ s.partab = t.partab)

/-- `s` and `t` differ at most in the values of the key registers. -/
def SameButKeyValues (s t : State) : Prop := { t with k := s.k } = s

/-- Two outcomes that are next states related by `r`. -/
def NextRelated (r : State → State → Prop) (a b : Host.Outcome State Fault Refusal) : Prop :=
  ∃ s t, a = .next s ∧ b = .next t ∧ r s t

/-- The commands that read key registers (R17). -/
def readsKeys : Instr → Bool
  | .rndk _ _ _ => true
  | .enc _ _ => true
  | .init => false
  | .ldi _ _ => false
  | .xor _ _ _ => false
  | .out _ => false
  | .outa => false
  | .sub _ _ => false
  | .isub _ _ => false
  | .perm _ _ => false
  | .sp _ _ => false
  | .par _ _ => false
  | .dot _ _ _ => false
  | .ldk _ _ => false
  | .kclr => false
  | .round _ _ _ => false
  | .isp _ _ => false
  | .decr _ _ _ => false
  | .lent _ _ _ => false
  | .dent _ _ _ => false
  | .lrow _ _ => false
  | .drow _ _ => false
  | .ltab _ => false
  | .dtab _ => false

/-! ## Exact reading of a binary32 pattern -/

/-- The rational a finite binary32 pattern of sign 0 stands for: 23 fraction bits, 8 exponent bits biased by 127,
exponent field 0 for zero and subnormal numbers (R107, G2). -/
def f32Value (w : Word) : ℚ :=
  if w.toNat / 2 ^ 23 = 0 then (w.toNat % 2 ^ 23 : Nat) * (2 : ℚ) ^ (-149 : ℤ)
  else (2 ^ 23 + (w.toNat % 2 ^ 23 : Nat) : ℚ) * (2 : ℚ) ^ (((w.toNat / 2 ^ 23 : Nat) : ℤ) - 150)

/-- A finite binary32 pattern of sign 0. -/
def FiniteF32 (w : Word) : Prop := w.toNat < 0x7F800000

/-! ## Illegal words (R58) -/

/-- How a command uses a 4-bit field of its word (R52, R53, R58). -/
inductive FieldUse where
  | register
  | keyIndex
  | none
deriving DecidableEq, Repr

/-- What R58 (b), (c), (d) allow in a field. -/
def FieldUse.allows : FieldUse → BitVec 4 → Prop
  | .register, v => v.toNat ≤ 7
  | .keyIndex, v => v.toNat ≤ 6
  | .none, v => v = 0

/-- The fields a command uses, from the columns of R56: `rd`, `rs1`, `rs2`; whether bits 15:0 are an immediate;
whether it has a format bit. -/
structure Layout where
  rd : FieldUse
  rs1 : FieldUse
  rs2 : FieldUse
  imm : Bool
  f : Bool

/-- The layout of each of the 24 values of `op` (R56); none for an unassigned one. -/
def layoutOf : Nat → Option Layout
  | 0x01 | 0x05 | 0x21 => some ⟨.none, .none, .none, false, false⟩
  | 0x02 => some ⟨.register, .none, .none, true, false⟩
  | 0x20 => some ⟨.keyIndex, .none, .none, true, false⟩
  | 0x04 => some ⟨.none, .register, .none, false, false⟩
  | 0x10 | 0x11 | 0x12 | 0x13 | 0x14 | 0x24 | 0x25 => some ⟨.register, .register, .none, false, false⟩
  | 0x03 | 0x15 | 0x22 | 0x26 => some ⟨.register, .register, .register, false, false⟩
  | 0x23 => some ⟨.register, .register, .keyIndex, false, false⟩
  | 0x30 | 0x31 => some ⟨.none, .register, .register, false, true⟩
  | 0x32 | 0x33 => some ⟨.none, .register, .none, false, true⟩
  | 0x34 | 0x35 => some ⟨.none, .none, .none, false, true⟩
  | _ => none

/-- The word is illegal: R58 (a) to (d). -/
def IllegalWord (w : Word) : Prop :=
  match layoutOf (opField w).toNat with
  | none => True
  | some l =>
    ¬ (l.rd.allows (rdField w) ∧ l.rs1.allows (rs1Field w) ∧
      (l.imm = false → l.rs2.allows (rs2Field w) ∧ zeroField w = 0 ∧ (l.f = false → fField w = 0)))

/-- The legal words with this `op` are encodings of the commands in `mine`; every other word with it is illegal
("Faults: `IllegalCmd`" of each command's rule). -/
def WordsOf (op : BitVec 8) (mine : Instr → Prop) : Prop :=
  ∀ w, opField w = op → (∃ i, mine i ∧ decode w = .ok i ∧ encode i = w) ∨ ∃ e, decode w = .error e

/-- A register number or key index at bit `lo` of a word, as the rules write an encoding: `rd << 20`. -/
def at32 (r : Fin 8) (lo : Nat) : Word := BitVec.ofNat 32 r.val <<< lo

/-! ## Nibble correlation and difference counts (95_test_vectors.md sections 4.3 and 5.3) -/

/-- The inner product of two 4-bit values. -/
def dot4 (p u : Nibble) : Bool :=
  (p &&& u).getLsbD 0 ^^ (p &&& u).getLsbD 1 ^^ (p &&& u).getLsbD 2 ^^ (p &&& u).getLsbD 3

/-- `lat(p, q)`, the 4-bit correlation sum. -/
def lat (c : Params) (p q : Nibble) : Int := ∑ u : Fin 16,
  if dot4 p (BitVec.ofFin u) = dot4 q (sboxAt c (BitVec.ofFin u)) then 1 else -1

/-- `ddt(p, q)`, the 4-bit difference count. -/
def ddt (c : Params) (p q : Nibble) : Nat :=
  (Finset.univ.filter fun u : Fin 16 =>
    sboxAt c (BitVec.ofFin u) ^^^ sboxAt c (BitVec.ofFin u ^^^ p) = q).card

/-! ## The reference configuration of the spec's examples -/

/-- REF of R7, for the spec's examples only: the model does not depend on it. -/
def refParams : Params where
  sbox := #v[0xE, 0x4, 0xD, 0x1, 0x2, 0xF, 0xB, 0x8, 0x3, 0xA, 0x6, 0xC, 0x5, 0x9, 0x0, 0x7]
  sboxInv := #v[0xE, 0x3, 0x4, 0x8, 0x1, 0xC, 0xA, 0xF, 0x7, 0xD, 0x9, 0x6, 0xB, 0x2, 0x0, 0x5]
  perm := #v[0, 4, 8, 12, 1, 5, 9, 13, 2, 6, 10, 14, 3, 7, 11, 15]

/-- The key set of the spec's examples (R38, R95), by index. -/
def refKeys (n : Nat) : Block := [0xA1B2, 0xC3D4, 0xE5F6, 0x0718, 0x293A, 0x4B5C, 0x6D7E].getD n 0

end Sys2Proof.Machine
end

