-- ==== Sys2Proof/Certificates/Slice0/Obligations.lean ====
section
/-! DEFINITION. The statements about the unit, for the provers. Each says in its docstring which rule of spec/ it
formalises. -/

open Sys2Proof Sys2Proof.Machine

/-! ## Encoding -/

/-- R56, R57: the word of a command decodes to that command, with every operand at every value. -/
def Obligations.EncodedCommandsDecodeBack : Prop :=
  ∀ i : Instr, i.wf = true → decode (encode i) = .ok i

/-- R49 to R57: a word that decodes is the encoding of exactly that command, and the command is well formed. -/
def Obligations.LegalWordsAreEncodings : Prop :=
  ∀ (w : Word) (i : Instr), decode w = .ok i → i.wf = true ∧ encode i = w

/-- R57: for every word either one row of the map of R56 selects it, and the word is that row's command, or no
row does and the word is illegal. -/
def Obligations.DecodingFollowsOpcodeMap : Prop :=
  opcodeMap.length = 24 ∧
  ∀ w : Word,
    (∃ r ∈ opcodeMap, r.selects w = true ∧ decode w = .ok (r.command w) ∧
      ∀ q ∈ opcodeMap, q.selects w = true → q.value = r.value) ∨
    ((∀ r ∈ opcodeMap, r.selects w = false) ∧ ∃ e, decode w = .error e)

/-- R58, R132: the words R58 calls illegal are those the decoder rejects, and each raises `IllegalCmd` and has no
other effect, whether or not the unit is ready. -/
def Obligations.IllegalWordsRaiseIllegalCmd : Prop :=
  (∀ w : Word, IllegalWord w ↔ ∃ e, decode w = .error e) ∧
  ∀ (w : Word) (s : State), IllegalWord w → s.fault = false →
    ∃ t, step (s.present (.command w)) = .next t ∧ FaultEntered .illegalCmd w s t

/-- 95_test_vectors.md 7.1 and 7.2: words of the spec, decoded. -/
def Obligations.SpecWordsDecodeAsListed : Prop :=
  decode 0x02101234 = .ok (.ldi 1 0x1234) ∧ decode 0x03312000 = .ok (.xor 3 1 2) ∧
  decode 0x20606D7E = .ok (.ldk 6 0x6D7E) ∧ decode 0x23310000 = .ok (.rndk 3 1 0) ∧
  decode 0x24210000 = .ok (.enc 2 1) ∧ decode 0x30012001 = .ok (.lent 1 2 .prob) ∧
  decode 0x33010000 = .ok (.drow 1 .raw) ∧ decode 0x35000001 = .ok (.dtab .prob) ∧
  decode 0x00000000 = .error .unassignedOp ∧ decode 0x02800001 = .error .registerField ∧
  decode 0x20700001 = .error .keyField ∧ decode 0x34000002 = .error .unusedField

/-- R60, R61: the text of a command is read back as that command, and the pseudo-instructions are the commands
they stand for. -/
def Obligations.AssemblerTextReadsBack : Prop :=
  (∀ i : Instr, i.wf = true → assemble (assemblyLine i) = some i) ∧
  (∀ rd : DReg, assemble ("CLR ".toList ++ regText rd) = some (.ldi rd 0)) ∧
  (∀ rd rs1 rs2 : DReg, ∀ m ∈ ["KMIX".toList, "WHITEN".toList],
    assemble (lineText m [regText rd, regText rs1, regText rs2]) = some (.xor rd rs1 rs2))

/-- R37 to R40: a 16-bit value is its low byte, then its high byte; key `i` of the key material is
`b(2i) + 256 * b(2i+1)`, and block `j` of a stream likewise; a 32-bit word is its four bytes, the least significant
first. -/
def Obligations.HostBytesAreLittleEndian : Prop :=
  (∀ v : Block, ∃ lo hi, blockBytes v = [lo, hi] ∧ v.toNat = lo.toNat + 256 * hi.toNat ∧ blockOfBytes lo hi = v) ∧
  (∀ (m : Vector Byte 14) (i : Fin 7),
    (materialKey m i).toNat = (m[2 * i.val]).toNat + 256 * (m[2 * i.val + 1]).toNat) ∧
  Vector.ofFn (materialKey #v[0xB2, 0xA1, 0xD4, 0xC3, 0xF6, 0xE5, 0x18, 0x07, 0x3A, 0x29, 0x5C, 0x4B, 0x7E, 0x6D]) =
    #v[0xA1B2, 0xC3D4, 0xE5F6, 0x0718, 0x293A, 0x4B5C, 0x6D7E] ∧
  (∀ (stream : List Byte) (j : Nat) (lo hi : Byte), stream[2 * j]? = some lo → stream[2 * j + 1]? = some hi →
    ∃ v, streamBlock stream j = some v ∧ v.toNat = lo.toNat + 256 * hi.toNat) ∧
  streamBlock [0x34, 0x12, 0xEF, 0xBE] 0 = some 0x1234 ∧ streamBlock [0x34, 0x12, 0xEF, 0xBE] 1 = some 0xBEEF ∧
  ∀ w : Word, ∃ b0 b1 b2 b3, wordBytes w = [b0, b1, b2, b3] ∧
    w.toNat = b0.toNat + 256 * b1.toNat + 65536 * b2.toNat + 16777216 * b3.toNat ∧ wordOfBytes b0 b1 b2 b3 = w

/-! ## The machine as a whole -/

/-- A step carries out the host's next action: a presented word that decodes runs its command in the state without
that word; with no action waiting nothing changes (log 2). -/
def Obligations.StepRunsTheDecodedCommand : Prop :=
  (∀ (s : State) (w : Word) (rest : List HostAction) (i : Instr), s.input = .command w :: rest →
    decode w = .ok i → i.wf = true → step s = exec i { s with input := rest }) ∧
  (∀ s : State, s.input = [] → step s = .next s)

/-- 93_implementation_defined.md, part 1: "every command word in every state has exactly one outcome": no step
ends in a fault or a refusal of the model. -/
def Obligations.EveryStepHasANextState : Prop :=
  (∀ (i : Instr) (s : State), ∃ t, exec i s = .next t) ∧ ∀ s : State, ∃ t, step s = .next t

/-- R26, R137 (a step-inductive invariant): the tables of a ready unit are those of its valid parameters, and the
fault record names a cause that holds. -/
def Obligations.EveryStepKeepsSoundness : Prop :=
  ∀ s t : State, s.Sound → step s = .next t → t.Sound

/-- The unit after reset is sound, whatever its parameters. -/
def Obligations.ResetIsSound : Prop := ∀ p : Params, { State.reset with params := p }.Sound

/-- R30, R146: what reset leaves, in the reset state and after the host's reset of any state at any time. -/
def Obligations.ResetLeavesTheStatedValues : Prop :=
  (∀ r, State.reset.readX r = 0) ∧ State.reset.acc = 0 ∧ (∀ n < 7, State.reset.keyValid n = false) ∧
  State.reset.ready = false ∧ State.reset.fault = false ∧ State.reset.errcode = 0 ∧ State.reset.errcmd = 0 ∧
  State.reset.outq = [] ∧ State.reset.status = 0 ∧
  ∀ s : State, ∃ t, step (s.present .reset) = .next t ∧
    (∀ r, t.readX r = 0) ∧ t.acc = 0 ∧ (∀ n < 7, t.keyValid n = false) ∧ t.ready = false ∧ t.fault = false ∧
    t.errcode = 0 ∧ t.errcmd = 0 ∧ t.outq = [] ∧ t.params = s.params ∧ t.taken = s.taken

/-- R23: `FAULT` is 0 after reset and set by fault entry alone; it is sticky, only reset clears it, and a faulted
unit discards every command with no effect at all. -/
def Obligations.FaultIsStickyAndDiscardsCommands : Prop :=
  State.reset.fault = false ∧
  (∀ s : State, ∃ t, step (s.present .reset) = .next t ∧ t.fault = false) ∧
  (∀ (s : State) (w : Word), s.fault = true → step (s.present (.command w)) = .next s) ∧
  (∀ (s t : State), s.fault = true → s.input.head? ≠ some .reset → step s = .next t →
    t.fault = true ∧ t.errcode = s.errcode ∧ t.errcmd = s.errcmd) ∧
  (∀ (s t : State), s.fault = false → step s = .next t → t.fault = true →
    ∃ w rest c, s.input = .command w :: rest ∧ FaultEntered c w { s with input := rest } t)

/-- R137: fault entry is precise: a command word that faults records its cause and itself, and changes nothing
else. -/
def Obligations.FaultsArePrecise : Prop :=
  ∀ (s t : State) (w : Word), s.fault = false → step (s.present (.command w)) = .next t → t.fault = true →
    ∃ c, FaultEntered c w s t

/-- R131 to R136: for each cause, exactly when a command raises it; no fault in any other case; and which commands
need `READY`. `exec` is given a command and no word: that a term that is not well formed stands for an illegal word
is the model's reading (log 17); IllegalWordsRaiseIllegalCmd speaks of the words. -/
def Obligations.EachCauseHasItsCondition : Prop :=
  (∀ i : Instr, needsReady i = true ↔ opField (encode i) ∉ [0x01, 0x02, 0x03, 0x04, 0x05, 0x20, 0x21]) ∧
  ∀ (s : State) (i : Instr), s.fault = false →
    (Faults i s .illegalCmd ↔ i.wf = false) ∧
    (Faults i s .notReady ↔ i.wf = true ∧ needsReady i = true ∧ s.ready = false) ∧
    (Faults i s .cfgInvalid ↔ i = .init ∧ s.ready = false ∧ ¬ ConfigValid s.params) ∧
    (Faults i s .keyInvalid ↔ s.ready = true ∧
      ((∃ rd rs1 k, i = .rndk rd rs1 k ∧ i.wf = true ∧ s.keyValid k = false) ∨
        (∃ rd rs1, i = .enc rd rs1 ∧ ∃ n < 7, s.keyValid n = false))) ∧
    (Faults i s .keyLocked ↔ ∃ k imm, i = .ldk k imm ∧ i.wf = true ∧ s.keyValid k = true) ∧
    ((∃ c, Faults i s c) ∨ ∃ t, exec i s = .next t ∧ t.fault = false)

/-- R13 (column "written by"), R15: which command can change which piece of state; at most one data register. -/
def Obligations.OnlyListedCommandsWriteEachPiece : Prop :=
  ∀ (i : Instr) (s t : State), exec i s = .next t →
    (∃ rd, ∀ r, r ≠ rd → t.readX r = s.readX r) ∧
    (t.x ≠ s.x → ∃ rd, (∃ v, i = .ldi rd v) ∨ (∃ a b, i = .xor rd a b ∨ i = .dot rd a b ∨ i = .round rd a b ∨
      i = .decr rd a b) ∨ (∃ a, i = .sub rd a ∨ i = .isub rd a ∨ i = .perm rd a ∨ i = .sp rd a ∨ i = .par rd a ∨
      i = .enc rd a ∨ i = .isp rd a) ∨ ∃ a k, i = .rndk rd a k) ∧
    (t.acc ≠ s.acc → ∃ a b f, i = .lent a b f ∨ i = .dent a b f) ∧
    (t.k ≠ s.k ∨ t.kvalid ≠ s.kvalid → (∃ k v, i = .ldk k v) ∨ i = .kclr) ∧
    (t.ready ≠ s.ready ∨ t.sptab ≠ s.sptab ∨ t.partab ≠ s.partab → i = .init) ∧
    (t.outq ≠ s.outq → i = .outa ∨ (∃ a, i = .out a) ∨ (∃ a f, i = .lrow a f ∨ i = .drow a f) ∨
      ∃ f, i = .ltab f ∨ i = .dtab f) ∧
    t.params = s.params ∧ t.input = s.input ∧ t.seen = s.seen

/-- R27: the parameters never change, not even by reset, and only `SUB`, `ISUB`, `PERM`, `ISP`, `DECR` and `INIT`
read them directly: any other command does the same under other parameters. -/
def Obligations.ParametersAreReadOnly : Prop :=
  (∀ s t : State, step s = .next t → t.params = s.params) ∧
  ∀ (i : Instr) (s t : State) (p : Params), exec i s = .next t →
    i = .init ∨ (∃ a b, i = .sub a b ∨ i = .isub a b ∨ i = .perm a b ∨ i = .isp a b) ∨
      (∃ a b c, i = .decr a b c) ∨ exec i { s with params := p } = .next { t with params := p }

/-- R22, R33: `READY` stays 1 until reset and the tables of a ready unit stay as they are; only `INIT` makes a
unit ready. -/
def Obligations.ReadyTablesStayFrozen : Prop :=
  (∀ s t : State, s.ready = true → s.input.head? ≠ some .reset → step s = .next t →
    t.ready = true ∧ t.sptab = s.sptab ∧ t.partab = s.partab) ∧
  ∀ s t : State, s.ready = false → step s = .next t → t.ready = true →
    s.input.head? = some (.command (encode .init)) ∧ ConfigValid s.params

/-- R17, R18: a loaded key is immutable: it stays loaded with its value until `KCLR` or reset. -/
def Obligations.LoadedKeysAreImmutable : Prop :=
  ∀ (s t : State) (n : Nat), n < 7 → s.keyValid n = true → s.input.head? ≠ some .reset →
    s.input.head? ≠ some (.command (encode .kclr)) → step s = .next t →
    t.keyValid n = true ∧ t.readKey n = s.readKey n

/-- R18, R26: no step can tell two states apart that differ only in unloaded key values and, while not ready, in
the tables; what the host reads is the same. -/
def Obligations.UnreadableStateIsNeverSeen : Prop :=
  ∀ s t : State, SameReadable s t → NextRelated SameReadable (step s) (step t)

/-- R17: a command other than `RNDK` and `ENC` does the same whatever the key values are: no key reaches a data
register or `OUTQ`. -/
def Obligations.KeyValuesReachOnlyRndkAndEnc : Prop :=
  ∀ (i : Instr) (s t : State), readsKeys i = false → SameButKeyValues s t →
    NextRelated SameButKeyValues (exec i s) (exec i t)

/-- R28, R42: no step but reset drops, duplicates or reorders a word: what has been emitted only grows at the
back, and the host takes words from the front, in order. That taking from an empty queue changes nothing is the
model's choice among those of I10 (log 11). -/
def Obligations.OutputQueueIsFirstInFirstOut : Prop :=
  (∀ s t : State, s.input.head? ≠ some .reset → step s = .next t → ∃ ws, t.emitted = s.emitted ++ ws) ∧
  (∀ (s : State) (w : Word) (rest : List Word), s.outq = w :: rest →
    ∃ t, step (s.present .popOut) = .next t ∧ t.outq = rest ∧ t.taken = s.taken ++ [w] ∧
      { t with outq := s.outq, seen := s.seen } = s) ∧
  (∀ s : State, s.outq = [] → step (s.present .popOut) = .next s)

/-- R20, R21: every bit of `STATUS`; reading `STATUS` or `ERRCMD` gives the host the word and has no side
effect. -/
def Obligations.StatusWordBitByBit : Prop :=
  (∀ (s : State) (b : Nat), b < 32 → s.status.getLsbD b =
    if b = 0 then s.ready else if b = 1 then s.fault else if 8 ≤ b ∧ b ≤ 14 then s.keyValid (b - 8)
    else if 16 ≤ b ∧ b ≤ 19 then s.errcode.getLsbD (b - 16) else false) ∧
  ∀ s : State, step (s.present .readStatus) = .next { s with seen := s.seen ++ [.status s.status] } ∧
    step (s.present .readErrcmd) = .next { s with seen := s.seen ++ [.errcmd s.errcmd] }

/-! ## Control -/

/-- R64. -/
def Obligations.InitValidatesThenBuildsOnce : Prop :=
  encode .init = 0x01000000 ∧ WordsOf 0x01 (fun i => i = .init) ∧
  (∀ s : State, s.fault = false → s.ready = true → exec .init s = .next s) ∧
  (∀ s : State, s.fault = false → s.ready = false → ¬ ConfigValid s.params → Faults .init s .cfgInvalid) ∧
  (∀ s : State, s.fault = false → s.ready = false → ConfigValid s.params →
    ∃ t, exec .init s = .next t ∧ t.ready = true ∧ (∀ i, t.readSptab i = spf s.params i) ∧
      (∀ i, t.readPartab i = par i) ∧ { t with ready := s.ready, sptab := s.sptab, partab := s.partab } = s) ∧
  (∀ s t : State, s.ready = false → ¬ ConfigValid s.params → step s = .next t →
    t.ready = false ∧ t.params = s.params) ∧
  (∃ t, exec .init { State.reset with params := refParams } = .next t ∧ t.status = 0x00000001) ∧
  (∃ t, exec .init { State.reset with params := { refParams with sbox := refParams.sbox.set 0 4 } } = .next t ∧
    t.status = 0x00010002 ∧ t.errcmd = 0x01000000)

/-- R65. -/
def Obligations.LdiLoadsTheImmediate : Prop :=
  (∀ rd imm, encode (.ldi rd imm) = 0x02000000 ||| at32 rd 20 ||| imm.setWidth 32) ∧
  WordsOf 0x02 (fun i => ∃ rd imm, i = .ldi rd imm) ∧
  (∀ (s : State) rd imm, s.fault = false → Yields (.ldi rd imm) s rd imm) ∧
  encode (.ldi 1 0x1234) = 0x02101234

/-- R66. -/
def Obligations.XorAddsBlocks : Prop :=
  (∀ rd rs1 rs2, encode (.xor rd rs1 rs2) = 0x03000000 ||| at32 rd 20 ||| at32 rs1 16 ||| at32 rs2 12) ∧
  WordsOf 0x03 (fun i => ∃ rd rs1 rs2, i = .xor rd rs1 rs2) ∧
  (∀ (s : State) rd rs1 rs2, s.fault = false →
    ∃ v, Yields (.xor rd rs1 rs2) s rd v ∧
      (∀ b, v.getLsbD b = ((s.readX rs1).getLsbD b ^^ (s.readX rs2).getLsbD b)) ∧ (rs1 = rs2 → v = 0)) ∧
  encode (.xor 3 1 2) = 0x03312000 ∧ (0x1234#16 ^^^ 0x5A5A#16) = 0x486E#16

/-- R67. -/
def Obligations.OutEmitsTheRegister : Prop :=
  (∀ rs1, encode (.out rs1) = 0x04000000 ||| at32 rs1 16) ∧ WordsOf 0x04 (fun i => ∃ rs1, i = .out rs1) ∧
  (∀ (s : State) rs1, s.fault = false →
    ∃ t w, exec (.out rs1) s = .next t ∧ OnlyEmits [w] s t ∧ w.toNat = (s.readX rs1).toNat) ∧
  encode (.out 2) = 0x04020000

/-- R68. -/
def Obligations.OutaEmitsTheAccumulator : Prop :=
  encode .outa = 0x05000000 ∧ WordsOf 0x05 (fun i => i = .outa) ∧
  (∀ s : State, s.fault = false → ∃ t, exec .outa s = .next t ∧ OnlyEmits [s.acc] s t) ∧
  (∃ t, exec .outa State.reset = .next t ∧ t.outq = [0x00000000])

/-! ## Primitives -/

/-- R78. -/
def Obligations.SubSubstitutesNibbles : Prop :=
  (∀ rd rs1, encode (.sub rd rs1) = 0x10000000 ||| at32 rd 20 ||| at32 rs1 16) ∧
  WordsOf 0x10 (fun i => ∃ rd rs1, i = .sub rd rs1) ∧
  (∀ (s : State) rd rs1, s.fault = false → s.ready = true →
    Yields (.sub rd rs1) s rd (s16 s.params (s.readX rs1)) ∧
    ∀ n < 4, nib (s16 s.params (s.readX rs1)) n = sboxAt s.params (nib (s.readX rs1) n)) ∧
  (∀ (s : State) rd rs1, s.fault = false → s.ready = false → Faults (.sub rd rs1) s .notReady) ∧
  encode (.sub 4 3) = 0x10430000 ∧ s16 refParams 0x486E = 0x23B0

/-- R79. -/
def Obligations.IsubInvertsSub : Prop :=
  (∀ rd rs1, encode (.isub rd rs1) = 0x11000000 ||| at32 rd 20 ||| at32 rs1 16) ∧
  WordsOf 0x11 (fun i => ∃ rd rs1, i = .isub rd rs1) ∧
  (∀ (s : State) rd rs1, s.fault = false → s.ready = true →
    Yields (.isub rd rs1) s rd (is16 s.params (s.readX rs1)) ∧
    ∀ n < 4, nib (is16 s.params (s.readX rs1)) n = sboxInvAt s.params (nib (s.readX rs1) n)) ∧
  (∀ (s t u : State) rd q rs1, s.fault = false → s.ready = true → ConfigValid s.params →
    ((exec (.sub q rs1) s = .next t ∧ exec (.isub rd q) t = .next u) ∨
      (exec (.isub q rs1) s = .next t ∧ exec (.sub rd q) t = .next u)) → u.readX rd = s.readX rs1) ∧
  (∀ (s : State) rd rs1, s.fault = false → s.ready = false → Faults (.isub rd rs1) s .notReady) ∧
  encode (.isub 2 1) = 0x11210000 ∧ is16 refParams 0x4D12 = 0x1234

/-- R80. -/
def Obligations.PermMovesBits : Prop :=
  (∀ rd rs1, encode (.perm rd rs1) = 0x12000000 ||| at32 rd 20 ||| at32 rs1 16) ∧
  WordsOf 0x12 (fun i => ∃ rd rs1, i = .perm rd rs1) ∧
  (∀ (s : State) rd rs1, s.fault = false → s.ready = true →
    Yields (.perm rd rs1) s rd (p16 s.params (s.readX rs1))) ∧
  (∀ (s t u : State) rd q rs1, s.fault = false → s.ready = true → ConfigValid s.params →
    exec (.perm q rs1) s = .next t → exec (.perm rd q) t = .next u → u.readX rd = s.readX rs1) ∧
  (∀ (s : State) rd rs1, s.fault = false → s.ready = false → Faults (.perm rd rs1) s .notReady) ∧
  encode (.perm 4 4) = 0x12440000 ∧ p16 refParams 0x23B0 = 0x20E6

/-- R81. -/
def Obligations.SpLooksUpTheCombinedTransform : Prop :=
  (∀ rd rs1, encode (.sp rd rs1) = 0x13000000 ||| at32 rd 20 ||| at32 rs1 16) ∧
  WordsOf 0x13 (fun i => ∃ rd rs1, i = .sp rd rs1) ∧
  (∀ (s : State) rd rs1, s.fault = false → s.ready = true →
    Yields (.sp rd rs1) s rd (s.readSptab (s.readX rs1)) ∧
    (TablesFrozen s → s.readSptab (s.readX rs1) = p16 s.params (s16 s.params (s.readX rs1)))) ∧
  (∀ (s t u t' : State) rd q rs1, s.fault = false → s.ready = true → TablesFrozen s →
    exec (.sub q rs1) s = .next t → exec (.perm rd q) t = .next u → exec (.sp rd rs1) s = .next t' →
    u.readX rd = t'.readX rd) ∧
  (∀ (s : State) rd rs1, s.fault = false → s.ready = false → Faults (.sp rd rs1) s .notReady) ∧
  encode (.sp 2 1) = 0x13210000 ∧ spf refParams 0x1234 = 0x4C16

/-- R82. -/
def Obligations.ParCountsBitsModTwo : Prop :=
  (∀ rd rs1, encode (.par rd rs1) = 0x14000000 ||| at32 rd 20 ||| at32 rs1 16) ∧
  WordsOf 0x14 (fun i => ∃ rd rs1, i = .par rd rs1) ∧
  (∀ (s : State) rd rs1, s.fault = false → s.ready = true →
    ∃ v, Yields (.par rd rs1) s rd v ∧ v.toNat = (s.readPartab (s.readX rs1)).toNat ∧
      (TablesFrozen s →
        v.toNat = (Finset.univ.filter fun b : Fin 16 => (s.readX rs1).getLsbD b.val = true).card % 2)) ∧
  (∀ (s : State) rd rs1, s.fault = false → s.ready = false → Faults (.par rd rs1) s .notReady) ∧
  par 0x0000 = false ∧ par 0xFFFF = false ∧ par 0x0001 = true ∧ par 0x1234 = true ∧
  encode (.par 2 1) = 0x14210000

/-- R83. -/
def Obligations.DotIsTheInnerProduct : Prop :=
  (∀ rd rs1 rs2, encode (.dot rd rs1 rs2) = 0x15000000 ||| at32 rd 20 ||| at32 rs1 16 ||| at32 rs2 12) ∧
  WordsOf 0x15 (fun i => ∃ rd rs1 rs2, i = .dot rd rs1 rs2) ∧
  (∀ (s : State) rd rs1 rs2, s.fault = false → s.ready = true →
    ∃ v, Yields (.dot rd rs1 rs2) s rd v ∧ Yields (.dot rd rs2 rs1) s rd v ∧
      v.toNat = (s.readPartab (s.readX rs1 &&& s.readX rs2)).toNat ∧
      (TablesFrozen s → v.toNat = (dot (s.readX rs1) (s.readX rs2)).toNat ∧
        (s.readX rs1 = 0 → v = 0) ∧ (rs1 = rs2 → v.toNat = (par (s.readX rs1)).toNat))) ∧
  (∀ (s : State) rd rs1 rs2, s.fault = false → s.ready = false → Faults (.dot rd rs1 rs2) s .notReady) ∧
  encode (.dot 0 1 2) = 0x15012000 ∧ dot 0x1234 0x5A5A = true

/-! ## Cipher -/

/-- R91. -/
def Obligations.LdkLoadsAKeyOnce : Prop :=
  (∀ k imm, encode (.ldk k imm) = 0x20000000 ||| at32 k 20 ||| imm.setWidth 32) ∧
  WordsOf 0x20 (fun i => ∃ k imm, i = .ldk k imm ∧ k.val < 7) ∧
  (∀ (s : State) (k : KeyField) imm, s.fault = false → k.val < 7 → s.keyValid k = false →
    ∃ t, exec (.ldk k imm) s = .next t ∧ t.readKey k = imm ∧ t.keyValid k = true ∧
      t.status.getLsbD (8 + k.val) = true ∧ OnlyKey k s t) ∧
  (∀ (s : State) (k : KeyField) imm, s.fault = false → k.val < 7 → s.keyValid k = true →
    Faults (.ldk k imm) s .keyLocked) ∧
  (∃ t u, exec (.ldk 0 0xA1B2) State.reset = .next t ∧ t.readKey 0 = 0xA1B2 ∧ t.status = 0x00000100 ∧
    exec (.ldk 0 0x0002) t = .next u ∧ u.status = 0x00050102 ∧ u.errcmd = 0x20000002 ∧ u.readKey 0 = 0xA1B2) ∧
  encode (.ldk 0 0xA1B2) = 0x2000A1B2

/-- R92: all seven keys are unloaded; what their registers hold then is unspecified, so nothing is said of it. -/
def Obligations.KclrUnloadsTheKeySet : Prop :=
  encode .kclr = 0x21000000 ∧ WordsOf 0x21 (fun i => i = .kclr) ∧
  (∀ s : State, s.fault = false →
    ∃ t, exec .kclr s = .next t ∧ (∀ n < 7, t.keyValid n = false) ∧
      { t with k := s.k, kvalid := s.kvalid, freeCount := s.freeCount } = s ∧
      ((∀ n < 7, s.keyValid n = false) → t = s)) ∧
  (∃ t u v, exec (.ldk 0 0x0001) State.reset = .next t ∧ exec .kclr t = .next u ∧
    exec (.ldk 0 0x0002) u = .next v ∧ v.readKey 0 = 0x0002 ∧ v.status = 0x00000100)

/-- R93. -/
def Obligations.RoundIsOneRound : Prop :=
  (∀ rd rs1 rs2, encode (.round rd rs1 rs2) = 0x22000000 ||| at32 rd 20 ||| at32 rs1 16 ||| at32 rs2 12) ∧
  WordsOf 0x22 (fun i => ∃ rd rs1 rs2, i = .round rd rs1 rs2) ∧
  (∀ (s : State) rd rs1 rs2, s.fault = false → s.ready = true →
    ∃ v, Yields (.round rd rs1 rs2) s rd v ∧ v = s.readSptab (s.readX rs1 ^^^ s.readX rs2) ∧
      (TablesFrozen s → v = p16 s.params (s16 s.params (s.readX rs1 ^^^ s.readX rs2)) ∧
        (rs1 = rs2 → v = spf s.params 0))) ∧
  (∀ (s t u t' : State) rd q rs1 rs2, s.fault = false → s.ready = true → exec (.xor q rs1 rs2) s = .next t →
    exec (.sp rd q) t = .next u → exec (.round rd rs1 rs2) s = .next t' → u.readX rd = t'.readX rd) ∧
  (∀ (s t u w t' : State) rd q rs1 rs2, s.fault = false → s.ready = true → TablesFrozen s →
    exec (.xor q rs1 rs2) s = .next t → exec (.sub q q) t = .next u → exec (.perm rd q) u = .next w →
    exec (.round rd rs1 rs2) s = .next t' → w.readX rd = t'.readX rd) ∧
  (∀ (s : State) rd rs1 rs2, s.fault = false → s.ready = false → Faults (.round rd rs1 rs2) s .notReady) ∧
  encode (.round 5 1 2) = 0x22512000 ∧ roundWith (spf refParams) 0x1234 0x5A5A = 0x20E6

/-- R94. -/
def Obligations.RndkUsesALoadedKey : Prop :=
  (∀ rd rs1 k, encode (.rndk rd rs1 k) = 0x23000000 ||| at32 rd 20 ||| at32 rs1 16 ||| at32 k 12) ∧
  WordsOf 0x23 (fun i => ∃ rd rs1 k, i = .rndk rd rs1 k ∧ k.val < 7) ∧
  (∀ (s : State) rd rs1 (k : KeyField), s.fault = false → s.ready = true → k.val < 7 → s.keyValid k = true →
    ∃ v, Yields (.rndk rd rs1 k) s rd v ∧ v = s.readSptab (s.readX rs1 ^^^ s.readKey k) ∧
      (TablesFrozen s → v = p16 s.params (s16 s.params (s.readX rs1 ^^^ s.readKey k)))) ∧
  (∀ (s : State) rd rs1 (k : KeyField), s.fault = false → s.ready = true → k.val < 7 → s.keyValid k = false →
    Faults (.rndk rd rs1 k) s .keyInvalid) ∧
  (∀ (s : State) rd rs1 (k : KeyField), s.fault = false → s.ready = false → k.val < 7 →
    Faults (.rndk rd rs1 k) s .notReady) ∧
  encode (.rndk 3 1 0) = 0x23310000 ∧ roundWith (spf refParams) 0xBEEF 0xA1B2 = 0x3E67 ∧
  encode (.rndk 3 3 1) = 0x23331000 ∧ roundWith (spf refParams) 0x3E67 0xC3D4 = 0x6A8D

/-- R95. -/
def Obligations.EncEncryptsWithTheKeySet : Prop :=
  (∀ rd rs1, encode (.enc rd rs1) = 0x24000000 ||| at32 rd 20 ||| at32 rs1 16) ∧
  WordsOf 0x24 (fun i => ∃ rd rs1, i = .enc rd rs1) ∧
  (∀ (s : State) rd rs1, s.fault = false → s.ready = true → (∀ n < 7, s.keyValid n = true) →
    ∃ v, Yields (.enc rd rs1) s rd v ∧ v = encWith s.readSptab s.readKey (s.readX rs1) ∧
      (TablesFrozen s → v = encWith (spf s.params) s.readKey (s.readX rs1) ∧
        ((∀ n < 7, s.readKey n = 0) → v = (spf s.params)^[6] (s.readX rs1)))) ∧
  (∀ (s : State) rd rs1 n, s.fault = false → s.ready = true → n < 7 → s.keyValid n = false →
    Faults (.enc rd rs1) s .keyInvalid) ∧
  (∀ (s : State) rd rs1, s.fault = false → s.ready = false → Faults (.enc rd rs1) s .notReady) ∧
  encode (.enc 2 1) = 0x24210000 ∧
  encWith (spf refParams) (fun _ => 0) 0x1234 = 0x8F7C ∧
  [1, 2, 3, 4, 5, 6].map (roundsUpTo (spf refParams) (fun _ => 0) 0x1234) =
    [0x4C16, 0x1695, 0x7975, 0xF151, 0x2FAA, 0x8F7C] ∧
  encWith (spf refParams) refKeys 0xBEEF = 0xA624 ∧
  [1, 2, 3, 4, 5, 6].map (roundsUpTo (spf refParams) refKeys 0xBEEF) =
    [0x3E67, 0x6A8D, 0x35CC, 0x641E, 0x6296, 0xCB5A]

/-- R96. -/
def Obligations.IspInvertsSp : Prop :=
  (∀ rd rs1, encode (.isp rd rs1) = 0x25000000 ||| at32 rd 20 ||| at32 rs1 16) ∧
  WordsOf 0x25 (fun i => ∃ rd rs1, i = .isp rd rs1) ∧
  (∀ (s : State) rd rs1, s.fault = false → s.ready = true →
    Yields (.isp rd rs1) s rd (is16 s.params (p16 s.params (s.readX rs1)))) ∧
  (∀ (s t u : State) rd q rs1, s.fault = false → s.ready = true → TablesFrozen s →
    ((exec (.sp q rs1) s = .next t ∧ exec (.isp rd q) t = .next u) ∨
      (exec (.isp q rs1) s = .next t ∧ exec (.sp rd q) t = .next u)) → u.readX rd = s.readX rs1) ∧
  (∀ (s : State) rd rs1, s.fault = false → s.ready = false → Faults (.isp rd rs1) s .notReady) ∧
  encode (.isp 7 5) = 0x25750000 ∧ ispf refParams 0x20E6 = 0x486E

/-- R97. -/
def Obligations.DecrUndoesRound : Prop :=
  (∀ rd rs1 rs2, encode (.decr rd rs1 rs2) = 0x26000000 ||| at32 rd 20 ||| at32 rs1 16 ||| at32 rs2 12) ∧
  WordsOf 0x26 (fun i => ∃ rd rs1 rs2, i = .decr rd rs1 rs2) ∧
  (∀ (s : State) rd rs1 rs2, s.fault = false → s.ready = true →
    ∃ v, Yields (.decr rd rs1 rs2) s rd v ∧ v = is16 s.params (p16 s.params (s.readX rs1)) ^^^ s.readX rs2 ∧
      (s.readX rs2 = 0 → v = ispf s.params (s.readX rs1))) ∧
  (∀ (s t u : State) rd q rs1 rs2, s.fault = false → s.ready = true → TablesFrozen s → q ≠ rs2 →
    exec (.round q rs1 rs2) s = .next t → exec (.decr rd q rs2) t = .next u → u.readX rd = s.readX rs1) ∧
  (∀ (s : State) rd rs1 rs2, s.fault = false → s.ready = false → Faults (.decr rd rs1 rs2) s .notReady) ∧
  encode (.decr 6 5 2) = 0x26652000 ∧ decRound refParams 0x20E6 0x5A5A = 0x1234

/-! ## Probability tables -/

/-- R110. -/
def Obligations.LentGivesOneLinearEntry : Prop :=
  (∀ rs1 rs2 f, encode (.lent rs1 rs2 f) = 0x30000000 ||| at32 rs1 16 ||| at32 rs2 12 ||| f.bit.setWidth 32) ∧
  WordsOf 0x30 (fun i => ∃ rs1 rs2 f, i = .lent rs1 rs2 f) ∧
  (∀ (s : State) rs1 rs2, s.fault = false → s.ready = true → TablesFrozen s →
    ∃ t, exec (.lent rs1 rs2 .raw) s = .next t ∧ OnlyAcc s t ∧
      t.acc.toInt = lc (spf s.params) par (s.readX rs1) (s.readX rs2)) ∧
  (∀ (s : State) rs1 rs2, s.fault = false → s.ready = true → TablesFrozen s →
    ∃ t, exec (.lent rs1 rs2 .prob) s = .next t ∧ OnlyAcc s t ∧
      t.acc = f32 ((lc (spf s.params) par (s.readX rs1) (s.readX rs2)).natAbs ^ 2) 32) ∧
  (∀ (s t : State) rs1 rs2 f, s.fault = false → s.ready = true → TablesFrozen s →
    exec (.lent rs1 rs2 f) s = .next t →
    (lc (spf s.params) par (s.readX rs1) (s.readX rs2) = 0 → t.acc = 0) ∧
    (s.readX rs1 = 0 → s.readX rs2 = 0 → t.acc = match f with | .raw => 0x00010000 | .prob => 0x3F800000)) ∧
  (∀ (s : State) rs1 rs2 f, s.fault = false → s.ready = false → Faults (.lent rs1 rs2 f) s .notReady) ∧
  encode (.lent 1 3 .raw) = 0x30013000 ∧ lc (spf refParams) par 0x000B 0x0100 = 32768 ∧
  f32 (32768 ^ 2) 32 = 0x3E800000

/-- R111. -/
def Obligations.DentGivesOneDifferentialEntry : Prop :=
  (∀ rs1 rs2 f, encode (.dent rs1 rs2 f) = 0x31000000 ||| at32 rs1 16 ||| at32 rs2 12 ||| f.bit.setWidth 32) ∧
  WordsOf 0x31 (fun i => ∃ rs1 rs2 f, i = .dent rs1 rs2 f) ∧
  (∀ (s : State) rs1 rs2, s.fault = false → s.ready = true → TablesFrozen s →
    ∃ t, exec (.dent rs1 rs2 .raw) s = .next t ∧ OnlyAcc s t ∧
      t.acc.toNat = dc (spf s.params) (s.readX rs1) (s.readX rs2)) ∧
  (∀ (s : State) rs1 rs2, s.fault = false → s.ready = true → TablesFrozen s →
    ∃ t, exec (.dent rs1 rs2 .prob) s = .next t ∧ OnlyAcc s t ∧
      f32Value t.acc = (dc (spf s.params) (s.readX rs1) (s.readX rs2) : ℚ) / 2 ^ 16) ∧
  (∀ (s t : State) rs1 rs2 f, s.fault = false → s.ready = true → TablesFrozen s →
    exec (.dent rs1 rs2 f) s = .next t →
    (dc (spf s.params) (s.readX rs1) (s.readX rs2) = 0 → t.acc = 0) ∧
    (s.readX rs1 = 0 → s.readX rs2 = 0 → t.acc = match f with | .raw => 0x00010000 | .prob => 0x3F800000)) ∧
  (∀ (s : State) rs1 rs2 f, s.fault = false → s.ready = false → Faults (.dent rs1 rs2 f) s .notReady) ∧
  encode (.dent 1 2 .prob) = 0x31012001 ∧ dc (spf refParams) 0x000B 0x0010 = 32768 ∧ f32 32768 16 = 0x3F000000

/-- R112. -/
def Obligations.LrowStreamsOneLinearRow : Prop :=
  (∀ rs1 f, encode (.lrow rs1 f) = 0x32000000 ||| at32 rs1 16 ||| f.bit.setWidth 32) ∧
  WordsOf 0x32 (fun i => ∃ rs1 f, i = .lrow rs1 f) ∧
  (∀ (s : State) rs1 f, s.fault = false → s.ready = true → TablesFrozen s →
    ∃ t, exec (.lrow rs1 f) s = .next t ∧ OnlyEmits (row .linear f (spf s.params) par (s.readX rs1)) s t ∧
      (s.readX rs1 = 0 → t.outq = s.outq ++ match f with
        | .raw => [0x80000000, 0x00000000, 0x00010000, 0xFFFFFFFF]
        | .prob => [0x80010000, 0x00000000, 0x3F800000, 0xFFFFFFFF])) ∧
  (∀ (s : State) rs1 f, s.fault = false → s.ready = false → Faults (.lrow rs1 f) s .notReady)

/-- R113. -/
def Obligations.DrowStreamsOneDifferentialRow : Prop :=
  (∀ rs1 f, encode (.drow rs1 f) = 0x33000000 ||| at32 rs1 16 ||| f.bit.setWidth 32) ∧
  WordsOf 0x33 (fun i => ∃ rs1 f, i = .drow rs1 f) ∧
  (∀ (s : State) rs1 f, s.fault = false → s.ready = true → TablesFrozen s →
    ∃ t, exec (.drow rs1 f) s = .next t ∧ OnlyEmits (row .differential f (spf s.params) par (s.readX rs1)) s t ∧
      (s.readX rs1 = 0 → t.outq = s.outq ++ match f with
        | .raw => [0x80020000, 0x00000000, 0x00010000, 0xFFFFFFFF]
        | .prob => [0x80030000, 0x00000000, 0x3F800000, 0xFFFFFFFF])) ∧
  (∀ (s : State) rs1 f, s.fault = false → s.ready = false → Faults (.drow rs1 f) s .notReady)

/-- R114: the rows of all 65536 `a`, ascending; equal in effect to as many `LROW`. -/
def Obligations.LtabStreamsTheLinearTable : Prop :=
  (∀ f, encode (.ltab f) = 0x34000000 ||| f.bit.setWidth 32) ∧ WordsOf 0x34 (fun i => ∃ f, i = .ltab f) ∧
  (∀ (s : State) f, s.fault = false → s.ready = true → TablesFrozen s →
    ∃ t ws, exec (.ltab f) s = .next t ∧ OnlyEmits ws s t ∧
      ws = (List.range 65536).flatMap (fun a => row .linear f (spf s.params) par (BitVec.ofNat 16 a)) ∧
      ws.take 4 = match f with
        | .raw => [0x80000000, 0x00000000, 0x00010000, 0xFFFFFFFF]
        | .prob => [0x80010000, 0x00000000, 0x3F800000, 0xFFFFFFFF]) ∧
  (∀ (s : State) f, s.fault = false → s.ready = false → Faults (.ltab f) s .notReady)

/-- R115. -/
def Obligations.DtabStreamsTheDifferentialTable : Prop :=
  (∀ f, encode (.dtab f) = 0x35000000 ||| f.bit.setWidth 32) ∧ WordsOf 0x35 (fun i => ∃ f, i = .dtab f) ∧
  (∀ (s : State) f, s.fault = false → s.ready = true → TablesFrozen s →
    ∃ t ws, exec (.dtab f) s = .next t ∧ OnlyEmits ws s t ∧
      ws = (List.range 65536).flatMap (fun a => row .differential f (spf s.params) par (BitVec.ofNat 16 a)) ∧
      ws.take 4 = match f with
        | .raw => [0x80020000, 0x00000000, 0x00010000, 0xFFFFFFFF]
        | .prob => [0x80030000, 0x00000000, 0x3F800000, 0xFFFFFFFF]) ∧
  (∀ (s : State) f, s.fault = false → s.ready = false → Faults (.dtab f) s .notReady)

/-! ## The pure functions -/

/-- R70, R71. -/
def Obligations.ParityAndInnerProductLaws : Prop :=
  (∀ v : Block, par v = ((Finset.univ.filter fun b : Fin 16 => v.getLsbD b.val = true).card % 2 == 1)) ∧
  par 0 = false ∧ (∀ a b : Block, par (a ^^^ b) = (par a ^^ par b)) ∧
  (∀ m v : Block, dot m v = par (m &&& v) ∧ dot m v = dot v m) ∧ (∀ v : Block, dot 0 v = false) ∧
  (∀ m a b : Block, dot m (a ^^^ b) = (dot m a ^^ dot m b)) ∧
  ∀ (s : State) (m v : Block), s.ready = true → TablesFrozen s → dot m v = s.readPartab (m &&& v)

/-- R72. -/
def Obligations.PermutationMovesEachBit : Prop :=
  (∀ p : Params, ConfigValid p →
    (∀ (v : Block) (i : Fin 16), (p16 p v).getLsbD (permAt p (BitVec.ofFin i)).toNat = v.getLsbD i.val) ∧
    (∀ (v : Block) (i : Fin 16), (p16 p v).getLsbD i.val = v.getLsbD (permAt p (BitVec.ofFin i)).toNat) ∧
    (∀ v : Block, (Finset.univ.filter fun b : Fin 16 => (p16 p v).getLsbD b.val = true).card =
      (Finset.univ.filter fun b : Fin 16 => v.getLsbD b.val = true).card) ∧
    p16 p 0 = 0 ∧ p16 p 0xFFFF = 0xFFFF ∧ (∀ a b : Block, p16 p (a ^^^ b) = p16 p a ^^^ p16 p b) ∧
    ∀ v : Block, p16 p (p16 p v) = v) ∧
  (∀ (v : Block) (i j : Nat), i < 4 → j < 4 →
    (nib (p16 refParams v) i).getLsbD j = (nib v j).getLsbD i) ∧
  p16 refParams 0x4D12 = 0x4C16 ∧ p16 refParams 0x0002 = 0x0010 ∧ p16 refParams 0x8421 = 0x8421

/-- R73, R74, R75, R87. -/
def Obligations.CombinedTransformIsABijection : Prop :=
  s16 refParams 0x1234 = 0x4D12 ∧ s16 refParams 0x0000 = 0xEEEE ∧ is16 refParams 0x4D12 = 0x1234 ∧
  s16 refParams (0x0001 ^^^ 0x0002) ≠ s16 refParams 0x0001 ^^^ s16 refParams 0x0002 ∧
  spf refParams 0x1234 = 0x4C16 ∧ spf refParams 0x0000 = 0xFFF0 ∧ spf refParams 0xFFFF = 0x0FFF ∧
  ∀ p : Params,
    (∀ (v : Block) (n : Nat), n < 4 → nib (s16 p v) n = sboxAt p (nib v n)) ∧
    (∀ (v : Block) (n : Nat), n < 4 → nib (is16 p v) n = sboxInvAt p (nib v n)) ∧
    (∀ v : Block, spf p v = p16 p (s16 p v) ∧ ispf p v = is16 p (p16 p v)) ∧
    (ConfigValid p → (∀ v : Block, is16 p (s16 p v) = v ∧ s16 p (is16 p v) = v) ∧
      (∀ v : Block, ispf p (spf p v) = v ∧ spf p (ispf p v) = v) ∧ Function.Bijective (spf p))

/-- R85, R86, R88: one round and its inverse, the six-round encryption, and that it is a bijection for every key
set. -/
def Obligations.EncryptionIsSixRoundsAndWhitening : Prop :=
  ∀ (p : Params) (key : Nat → Block),
    (∀ v k : Block, roundWith (spf p) v k = spf p (v ^^^ k) ∧ decRound p v k = ispf p v ^^^ k) ∧
    (∀ v : Block, encWith (spf p) key v = spf p (spf p (spf p (spf p (spf p (spf p (v ^^^ key 0) ^^^ key 1) ^^^ key 2)
      ^^^ key 3) ^^^ key 4) ^^^ key 5) ^^^ key 6) ∧
    ((∀ n, key n = 0) → ∀ v : Block, encWith (spf p) key v = (spf p)^[6] v) ∧
    (ConfigValid p → Function.Bijective (encWith (spf p) key) ∧
      ∀ v k : Block, decRound p (roundWith (spf p) v k) k = v)

/-- R89: peeling all seven key layers, the whitening first and then rounds 5 to 0, recovers the block. -/
def Obligations.FullDecryptionRecoversTheBlock : Prop :=
  ∀ (p : Params) (key : Nat → Block),
    (∀ c : Block, decFull p key c = decRound p (decRound p (decRound p (decRound p (decRound p (decRound p
      (c ^^^ key 6) (key 5)) (key 4)) (key 3)) (key 2)) (key 1)) (key 0)) ∧
    ∀ v : Block, ConfigValid p → decFull p key (encWith (spf p) key v) = v

/-- R99: the correlation sum, counted and summed over all 65536 inputs, and its summand by table lookups. -/
def Obligations.CorrelationSumCountsAllInputs : Prop :=
  ∀ (p : Params) (a b : Block),
    lc (spf p) par a b =
      65536 - 2 * ((Finset.univ.filter fun t : Block => (dot a t ^^ dot b (spf p t)) = true).card : Int) ∧
    lc (spf p) par a b = (∑ t : Block, if dot a t = dot b (spf p t) then 1 else -1) ∧
    ∀ (s : State) (t : Block), s.ready = true → TablesFrozen s → s.params = p →
      (dot a t ^^ dot b (spf p t)) = (s.readPartab (a &&& t) ^^ s.readPartab (b &&& s.readSptab t)) ∧
      (dot a t ^^ dot b (spf p t)) = s.readPartab ((a &&& t) ^^^ (b &&& s.readSptab t))

/-- R100: range and evenness, the zero masks, Parseval's identity, that no row is empty, and that `LC` fits 18 bits
signed. -/
def Obligations.CorrelationSumFacts : Prop :=
  ∀ p : Params, ConfigValid p →
    (∀ a b : Block, -65536 ≤ lc (spf p) par a b ∧ lc (spf p) par a b ≤ 65536 ∧ lc (spf p) par a b % 2 = 0) ∧
    lc (spf p) par 0 0 = 65536 ∧ (∀ b : Block, b ≠ 0 → lc (spf p) par 0 b = 0) ∧
    (∀ a : Block, a ≠ 0 → lc (spf p) par a 0 = 0) ∧
    (∀ a : Block, (∑ b : Block, lc (spf p) par a b ^ 2) = 2 ^ 32 ∧ ∃ b : Block, lc (spf p) par a b ≠ 0) ∧
    ∀ a b : Block, -(2 ^ 17) ≤ lc (spf p) par a b ∧ lc (spf p) par a b < 2 ^ 17

/-- R102, R103. -/
def Obligations.DifferenceCountFacts : Prop :=
  (∀ (p : Params) (a b : Block),
    dc (spf p) a b = (Finset.univ.filter fun t : Block => spf p t ^^^ spf p (t ^^^ a) = b).card ∧
    ∀ s : State, s.ready = true → TablesFrozen s → s.params = p →
      dc (spf p) a b =
        (Finset.univ.filter fun t : Block => s.readSptab t ^^^ s.readSptab (t ^^^ a) = b).card) ∧
  ∀ p : Params, ConfigValid p →
    (∀ a b : Block, dc (spf p) a b ≤ 65536) ∧
    (∀ a : Block, (∑ b : Block, dc (spf p) a b) = 65536 ∧ ∃ b : Block, dc (spf p) a b ≠ 0) ∧
    dc (spf p) 0 0 = 65536 ∧ (∀ b : Block, b ≠ 0 → dc (spf p) 0 b = 0) ∧
    (∀ a : Block, a ≠ 0 → dc (spf p) a 0 = 0) ∧ ∀ a b : Block, a ≠ 0 → dc (spf p) a b % 2 = 0

/-- R107: `f32` gives the binary32 number nearest the exact probability `num / 2^k`, ties to the even significand;
it is zero or a normal number. -/
def Obligations.FloatingValueIsNearestEven : Prop :=
  ∀ num k : Nat, num ≤ 2 ^ k → k ≤ 32 →
    FiniteF32 (f32 num k) ∧ (f32 num k = 0 ↔ num = 0) ∧ (num ≠ 0 → 2 ^ 23 ≤ (f32 num k).toNat) ∧
    ∀ w : Word, FiniteF32 w →
      |f32Value (f32 num k) - (num : ℚ) / 2 ^ k| ≤ |f32Value w - (num : ℚ) / 2 ^ k| ∧
      (|f32Value (f32 num k) - (num : ℚ) / 2 ^ k| = |f32Value w - (num : ℚ) / 2 ^ k| →
        w ≠ f32 num k → (f32 num k).toNat % 2 = 0)

/-- R105, R106, R108: a row is its header, the stored entries in ascending order of `b` with their values, and the
end word; a `b` word has bit 31 clear and the end word has it set. -/
def Obligations.RowsListStoredEntriesInOrder : Prop :=
  ∀ (v : Variant) (f : Fmt) (sp : Block → Block) (pa : Block → Bool) (a : Block),
    ∃ stored : List Block,
      (∀ b : Block, b ∈ stored ↔ entryOf v sp pa a b ≠ 0) ∧ stored.Pairwise (fun b c => b.toNat < c.toNat) ∧
      row v f sp pa a =
        rowHeader v f a :: stored.flatMap (fun b => [b.setWidth 32, valueOf v f (entryOf v sp pa a b)]) ++
          [0xFFFFFFFF] ∧
      (row v f sp pa a).length = 2 + 2 * stored.length ∧
      (rowHeader v f a).toNat = 2 ^ 31 + v.bit.toNat * 2 ^ 17 + f.bit.toNat * 2 ^ 16 + a.toNat ∧
      (∀ b : Block, (valueOf .linear .raw (lc sp pa a b)).toInt = lc sp pa a b) ∧
      (∀ b : Block, (valueOf .differential .raw (dc sp a b)).toNat = dc sp a b) ∧
      (∀ b : Block, (b.setWidth 32 : Word).getLsbD 31 = false) ∧ (0xFFFFFFFF : Word).getLsbD 31 = true

/-- R100 (d), R103 (a), R140: under valid parameters no row is empty, linear or differential. -/
def Obligations.NoRowIsEmpty : Prop :=
  ∀ (p : Params) (v : Variant) (a : Block), ConfigValid p →
    (∃ b : Block, entryOf v (spf p) par a b ≠ 0) ∧
    ∀ f, 4 ≤ (row v f (spf p) par a).length ∧ (row v f (spf p) par a).length ≤ 131074

/-- 95_test_vectors.md 4.3 and 5.3: under valid parameters an entry of either table is the product of four nibble
entries. -/
def Obligations.TableEntriesFactorByNibble : Prop :=
  ∀ (p : Params) (a b : Block), ConfigValid p →
    lc (spf p) par a b =
      lat p (nib a 3) (nib (p16 p b) 3) * lat p (nib a 2) (nib (p16 p b) 2) * lat p (nib a 1) (nib (p16 p b) 1) *
        lat p (nib a 0) (nib (p16 p b) 0) ∧
    dc (spf p) a b =
      ddt p (nib a 3) (nib (p16 p b) 3) * ddt p (nib a 2) (nib (p16 p b) 2) * ddt p (nib a 1) (nib (p16 p b) 1) *
        ddt p (nib a 0) (nib (p16 p b) 0)

/-! ## Runs -/

/-- R149: a program's run is the steps in which the host presents its words; it goes on to a next state, its own
words stand after those emitted before it, which no observation of the run shows; and the host's reading and removing
afterwards does not change what is observed. -/
def Obligations.RunsShowTheWordsTheyEmit : Prop :=
  (∀ (ws : List Word) (s : State), runSteps ws.length (s.withProgram ws) = runProgram ws (s.withProgram [])) ∧
  (∀ (ws : List Word) (s : State), ∃ t, runProgram ws s = .next t ∧ t.input = s.input ∧ t.taken = s.taken ∧
    t.outq = s.outq ++ (s.observe t).emitted ∧ t.emitted = s.emitted ++ (s.observe t).emitted) ∧
  (∀ (vs ws : List Word) (s t u : State), runProgram vs s = .next t → runProgram ws t = .next u →
    runProgram (vs ++ ws) s = .next u ∧
      (s.observe u).emitted = (s.observe t).emitted ++ (t.observe u).emitted) ∧
  (∀ (start s t : State) (a : HostAction), a = .readStatus ∨ a = .readErrcmd ∨ a = .popOut →
    step (s.present a) = .next t → start.observe t = start.observe s) ∧
  ∀ (ws : List Word) (s : State), ¬ s.proper → runProgram ws s = .next s
end

