-- ==== Sys2Proof/Laws/Encode.lean ====
section
/-! SUPPORT. The fields of an encoded word, a word from its fields, and what the field readers of the decoder can
answer. -/

namespace Sys2Proof

/-! ## Placed fields -/

@[simp] theorem getLsbD_place (w : Nat) {n : Nat} (v : BitVec n) (lo i : Nat) :
    (place w v lo).getLsbD i = (decide (i < w) && (decide (lo ≤ i) && v.getLsbD (i - lo))) := by
  simp only [place, BitVec.getLsbD_shiftLeft, BitVec.getLsbD_setWidth]
  by_cases h : i < w
  · by_cases h' : i < lo
    · have : ¬ lo ≤ i := by omega
      simp [h, h', this]
    · have h1 : lo ≤ i := by omega
      have h2 : i - lo < w := by omega
      simp [h, h', h1, h2]
  · simp [h]

@[simp] theorem getElem_place (w : Nat) {n : Nat} (v : BitVec n) (lo i : Nat) (hi : i < w) :
    (place w v lo)[i] = (decide (lo ≤ i) && v.getLsbD (i - lo)) := by
  rw [← BitVec.getLsbD_eq_getElem, getLsbD_place]; simp [hi]

/-! ## Fields of a word of format R or I -/

section

variable (op : BitVec 8) (rd rs1 rs2 : BitVec 4) (f : BitVec 1) (imm : Block)

@[simp] theorem opField_packR : opField (packR op rd rs1 rs2 f) = op := by
  apply BitVec.eq_of_getLsbD_eq
  intro i hi
  interval_cases i <;> simp [opField, packR]

@[simp] theorem rdField_packR : rdField (packR op rd rs1 rs2 f) = rd := by
  apply BitVec.eq_of_getLsbD_eq
  intro i hi
  interval_cases i <;> simp [rdField, packR]

@[simp] theorem rs1Field_packR : rs1Field (packR op rd rs1 rs2 f) = rs1 := by
  apply BitVec.eq_of_getLsbD_eq
  intro i hi
  interval_cases i <;> simp [rs1Field, packR]

@[simp] theorem rs2Field_packR : rs2Field (packR op rd rs1 rs2 f) = rs2 := by
  apply BitVec.eq_of_getLsbD_eq
  intro i hi
  interval_cases i <;> simp [rs2Field, packR]

@[simp] theorem zeroField_packR : zeroField (packR op rd rs1 rs2 f) = 0 := by
  apply BitVec.eq_of_getLsbD_eq
  intro i hi
  interval_cases i <;> simp [zeroField, packR]

@[simp] theorem fField_packR : fField (packR op rd rs1 rs2 f) = f := by
  apply BitVec.eq_of_getLsbD_eq
  intro i hi
  interval_cases i; simp [fField, packR]

@[simp] theorem opField_packI : opField (packI op rd imm) = op := by
  apply BitVec.eq_of_getLsbD_eq
  intro i hi
  interval_cases i <;> simp [opField, packI]

@[simp] theorem rdField_packI : rdField (packI op rd imm) = rd := by
  apply BitVec.eq_of_getLsbD_eq
  intro i hi
  interval_cases i <;> simp [rdField, packI]

@[simp] theorem rs1Field_packI : rs1Field (packI op rd imm) = 0 := by
  apply BitVec.eq_of_getLsbD_eq
  intro i hi
  interval_cases i <;> simp [rs1Field, packI]

@[simp] theorem immField_packI : immField (packI op rd imm) = imm := by
  apply BitVec.eq_of_getLsbD_eq
  intro i hi
  interval_cases i <;> simp [immField, packI]

end

/-- A word whose `zero` field is 0 is format R of its fields. -/
theorem packR_of_fields {w : Word} (h : zeroField w = 0) :
    packR (opField w) (rdField w) (rs1Field w) (rs2Field w) (fField w) = w := by
  have hz : ∀ i < 11, w.getLsbD (1 + i) = false := by
    intro i hi
    have := congrArg (fun v => v.getLsbD i) h
    simpa [zeroField, hi] using this
  apply BitVec.eq_of_getLsbD_eq
  intro i hi
  by_cases h1 : 1 ≤ i ∧ i < 12
  · have := hz (i - 1) (by omega)
    rw [show 1 + (i - 1) = i by omega] at this
    rw [this]
    obtain ⟨h1, h2⟩ := h1
    interval_cases i <;> simp [packR, opField, rdField, rs1Field, rs2Field, fField]
  · have : i = 0 ∨ 12 ≤ i := by omega
    rcases this with rfl | h12
    · simp [packR, opField, rdField, rs1Field, rs2Field, fField]
    · clear h1 hz h
      interval_cases i <;> simp [packR, opField, rdField, rs1Field, rs2Field, fField]

/-- A word whose bits 19:16 are 0 is format I of its fields. -/
theorem packI_of_fields {w : Word} (h : rs1Field w = 0) : packI (opField w) (rdField w) (immField w) = w := by
  have hz : ∀ i < 4, w.getLsbD (16 + i) = false := by
    intro i hi
    have := congrArg (fun v => v.getLsbD i) h
    simpa [rs1Field, hi] using this
  apply BitVec.eq_of_getLsbD_eq
  intro i hi
  by_cases h1 : 16 ≤ i ∧ i < 20
  · have := hz (i - 16) (by omega)
    rw [show 16 + (i - 16) = i by omega] at this
    rw [this]
    obtain ⟨h1, h2⟩ := h1
    interval_cases i <;> simp [packI, opField, rdField, immField]
  · have : i < 16 ∨ 20 ≤ i := by omega
    clear h1 hz h
    rcases this with h16 | h20
    · interval_cases i <;> simp [packI, opField, rdField, immField]
    · interval_cases i <;> simp [packI, opField, rdField, immField]

/-! ## Field readers -/

@[simp] theorem toNat_fieldOf (r : Fin 8) : (fieldOf r).toNat = r.val := by
  have := r.isLt
  simp [fieldOf]; omega

@[simp] theorem regOf_fieldOf (r : DReg) : regOf (fieldOf r) = .ok r := by
  simp [regOf]

theorem keyOf_fieldOf {k : KeyField} (h : KeyField.legal k = true) : keyOf (fieldOf k) = .ok k := by
  have : k.val < 7 := by simpa [KeyField.legal] using h
  simp [keyOf, this]

@[simp] theorem unused_zero {n : Nat} : unused (0 : BitVec n) = .ok () := by simp [unused]

@[simp] theorem fmtOf_bit (f : Fmt) : fmtOf f.bit = f := by cases f <;> rfl

theorem regOf_eq_ok {v : BitVec 4} {r : DReg} (h : regOf v = .ok r) : v = fieldOf r := by
  unfold regOf at h
  split at h
  · cases h; apply BitVec.eq_of_toNat_eq; simp
  · cases h

theorem keyOf_eq_ok {v : BitVec 4} {k : KeyField} (h : keyOf v = .ok k) :
    v = fieldOf k ∧ KeyField.legal k = true := by
  unfold keyOf at h
  split at h
  case isTrue hv => cases h; exact ⟨by apply BitVec.eq_of_toNat_eq; simp, by simpa [KeyField.legal] using hv⟩
  case isFalse => cases h

theorem unused_eq_ok {n : Nat} {v : BitVec n} {u : Unit} (h : unused v = .ok u) : v = 0 := by
  unfold unused at h
  split at h
  · assumption
  · cases h

theorem bit_fmtOf (v : BitVec 1) : (fmtOf v).bit = v := by
  revert v; decide

/-- From `x >>= g = .ok r`, the value of `x` and what `g` makes of it. -/
theorem bind_eq_ok {ε α β : Type} {x : Except ε α} {g : α → Except ε β} {r : β} (h : (x >>= g) = .ok r) :
    ∃ a, x = .ok a ∧ g a = .ok r := by
  cases x with
  | error e => cases h
  | ok a => exact ⟨a, rfl, h⟩

end Sys2Proof
end

