-- ==== Sys2Proof/Laws/State.lean ====
section
/-! SUPPORT. One lemma per field per update of the state, each true by rfl: later proofs do not unfold an update. -/

namespace Sys2Proof.Machine

/-! ## `State.writeX` -/

@[simp] theorem State.writeX_x (s : State) (r : DReg) (v : Block) : (s.writeX r v).x = s.x.set r.val v r.isLt := rfl
@[simp] theorem State.writeX_acc (s : State) (r : DReg) (v : Block) : (s.writeX r v).acc = s.acc := rfl
@[simp] theorem State.writeX_k (s : State) (r : DReg) (v : Block) : (s.writeX r v).k = s.k := rfl
@[simp] theorem State.writeX_kvalid (s : State) (r : DReg) (v : Block) : (s.writeX r v).kvalid = s.kvalid := rfl
@[simp] theorem State.writeX_ready (s : State) (r : DReg) (v : Block) : (s.writeX r v).ready = s.ready := rfl
@[simp] theorem State.writeX_fault (s : State) (r : DReg) (v : Block) : (s.writeX r v).fault = s.fault := rfl
@[simp] theorem State.writeX_errcode (s : State) (r : DReg) (v : Block) : (s.writeX r v).errcode = s.errcode := rfl
@[simp] theorem State.writeX_errcmd (s : State) (r : DReg) (v : Block) : (s.writeX r v).errcmd = s.errcmd := rfl
@[simp] theorem State.writeX_sptab (s : State) (r : DReg) (v : Block) : (s.writeX r v).sptab = s.sptab := rfl
@[simp] theorem State.writeX_partab (s : State) (r : DReg) (v : Block) : (s.writeX r v).partab = s.partab := rfl
@[simp] theorem State.writeX_outq (s : State) (r : DReg) (v : Block) : (s.writeX r v).outq = s.outq := rfl
@[simp] theorem State.writeX_params (s : State) (r : DReg) (v : Block) : (s.writeX r v).params = s.params := rfl
@[simp] theorem State.writeX_input (s : State) (r : DReg) (v : Block) : (s.writeX r v).input = s.input := rfl
@[simp] theorem State.writeX_seen (s : State) (r : DReg) (v : Block) : (s.writeX r v).seen = s.seen := rfl
@[simp] theorem State.writeX_freeCount (s : State) (r : DReg) (v : Block) : (s.writeX r v).freeCount = s.freeCount := rfl

/-! ## `State.setAcc` -/

@[simp] theorem State.setAcc_x (s : State) (w : Word) : (s.setAcc w).x = s.x := rfl
@[simp] theorem State.setAcc_acc (s : State) (w : Word) : (s.setAcc w).acc = w := rfl
@[simp] theorem State.setAcc_k (s : State) (w : Word) : (s.setAcc w).k = s.k := rfl
@[simp] theorem State.setAcc_kvalid (s : State) (w : Word) : (s.setAcc w).kvalid = s.kvalid := rfl
@[simp] theorem State.setAcc_ready (s : State) (w : Word) : (s.setAcc w).ready = s.ready := rfl
@[simp] theorem State.setAcc_fault (s : State) (w : Word) : (s.setAcc w).fault = s.fault := rfl
@[simp] theorem State.setAcc_errcode (s : State) (w : Word) : (s.setAcc w).errcode = s.errcode := rfl
@[simp] theorem State.setAcc_errcmd (s : State) (w : Word) : (s.setAcc w).errcmd = s.errcmd := rfl
@[simp] theorem State.setAcc_sptab (s : State) (w : Word) : (s.setAcc w).sptab = s.sptab := rfl
@[simp] theorem State.setAcc_partab (s : State) (w : Word) : (s.setAcc w).partab = s.partab := rfl
@[simp] theorem State.setAcc_outq (s : State) (w : Word) : (s.setAcc w).outq = s.outq := rfl
@[simp] theorem State.setAcc_params (s : State) (w : Word) : (s.setAcc w).params = s.params := rfl
@[simp] theorem State.setAcc_input (s : State) (w : Word) : (s.setAcc w).input = s.input := rfl
@[simp] theorem State.setAcc_seen (s : State) (w : Word) : (s.setAcc w).seen = s.seen := rfl
@[simp] theorem State.setAcc_freeCount (s : State) (w : Word) : (s.setAcc w).freeCount = s.freeCount := rfl

/-! ## `State.emit` -/

@[simp] theorem State.emit_x (s : State) (ws : List Word) : (s.emit ws).x = s.x := rfl
@[simp] theorem State.emit_acc (s : State) (ws : List Word) : (s.emit ws).acc = s.acc := rfl
@[simp] theorem State.emit_k (s : State) (ws : List Word) : (s.emit ws).k = s.k := rfl
@[simp] theorem State.emit_kvalid (s : State) (ws : List Word) : (s.emit ws).kvalid = s.kvalid := rfl
@[simp] theorem State.emit_ready (s : State) (ws : List Word) : (s.emit ws).ready = s.ready := rfl
@[simp] theorem State.emit_fault (s : State) (ws : List Word) : (s.emit ws).fault = s.fault := rfl
@[simp] theorem State.emit_errcode (s : State) (ws : List Word) : (s.emit ws).errcode = s.errcode := rfl
@[simp] theorem State.emit_errcmd (s : State) (ws : List Word) : (s.emit ws).errcmd = s.errcmd := rfl
@[simp] theorem State.emit_sptab (s : State) (ws : List Word) : (s.emit ws).sptab = s.sptab := rfl
@[simp] theorem State.emit_partab (s : State) (ws : List Word) : (s.emit ws).partab = s.partab := rfl
@[simp] theorem State.emit_outq (s : State) (ws : List Word) : (s.emit ws).outq = s.outq ++ ws := rfl
@[simp] theorem State.emit_params (s : State) (ws : List Word) : (s.emit ws).params = s.params := rfl
@[simp] theorem State.emit_input (s : State) (ws : List Word) : (s.emit ws).input = s.input := rfl
@[simp] theorem State.emit_seen (s : State) (ws : List Word) : (s.emit ws).seen = s.seen := rfl
@[simp] theorem State.emit_freeCount (s : State) (ws : List Word) : (s.emit ws).freeCount = s.freeCount := rfl

/-! ## `State.loadKey` -/

@[simp] theorem State.loadKey_x (s : State) (n : Nat) (v : Block) : (s.loadKey n v).x = s.x := rfl
@[simp] theorem State.loadKey_acc (s : State) (n : Nat) (v : Block) : (s.loadKey n v).acc = s.acc := rfl
@[simp] theorem State.loadKey_k (s : State) (n : Nat) (v : Block) : (s.loadKey n v).k = s.k.setIfInBounds n v := rfl
@[simp] theorem State.loadKey_kvalid (s : State) (n : Nat) (v : Block) : (s.loadKey n v).kvalid = s.kvalid.setIfInBounds n true := rfl
@[simp] theorem State.loadKey_ready (s : State) (n : Nat) (v : Block) : (s.loadKey n v).ready = s.ready := rfl
@[simp] theorem State.loadKey_fault (s : State) (n : Nat) (v : Block) : (s.loadKey n v).fault = s.fault := rfl
@[simp] theorem State.loadKey_errcode (s : State) (n : Nat) (v : Block) : (s.loadKey n v).errcode = s.errcode := rfl
@[simp] theorem State.loadKey_errcmd (s : State) (n : Nat) (v : Block) : (s.loadKey n v).errcmd = s.errcmd := rfl
@[simp] theorem State.loadKey_sptab (s : State) (n : Nat) (v : Block) : (s.loadKey n v).sptab = s.sptab := rfl
@[simp] theorem State.loadKey_partab (s : State) (n : Nat) (v : Block) : (s.loadKey n v).partab = s.partab := rfl
@[simp] theorem State.loadKey_outq (s : State) (n : Nat) (v : Block) : (s.loadKey n v).outq = s.outq := rfl
@[simp] theorem State.loadKey_params (s : State) (n : Nat) (v : Block) : (s.loadKey n v).params = s.params := rfl
@[simp] theorem State.loadKey_input (s : State) (n : Nat) (v : Block) : (s.loadKey n v).input = s.input := rfl
@[simp] theorem State.loadKey_seen (s : State) (n : Nat) (v : Block) : (s.loadKey n v).seen = s.seen := rfl
@[simp] theorem State.loadKey_freeCount (s : State) (n : Nat) (v : Block) : (s.loadKey n v).freeCount = s.freeCount := rfl

/-! ## `State.unloadKeys` -/

@[simp] theorem State.unloadKeys_x (s : State) : (s.unloadKeys).x = s.x := rfl
@[simp] theorem State.unloadKeys_acc (s : State) : (s.unloadKeys).acc = s.acc := rfl
@[simp] theorem State.unloadKeys_k (s : State) : (s.unloadKeys).k = Vector.ofFn fun j => if s.kvalid[j] then Config.unspecifiedKey s.freeCount j else s.k[j] := rfl
@[simp] theorem State.unloadKeys_kvalid (s : State) : (s.unloadKeys).kvalid = Vector.replicate 7 false := rfl
@[simp] theorem State.unloadKeys_ready (s : State) : (s.unloadKeys).ready = s.ready := rfl
@[simp] theorem State.unloadKeys_fault (s : State) : (s.unloadKeys).fault = s.fault := rfl
@[simp] theorem State.unloadKeys_errcode (s : State) : (s.unloadKeys).errcode = s.errcode := rfl
@[simp] theorem State.unloadKeys_errcmd (s : State) : (s.unloadKeys).errcmd = s.errcmd := rfl
@[simp] theorem State.unloadKeys_sptab (s : State) : (s.unloadKeys).sptab = s.sptab := rfl
@[simp] theorem State.unloadKeys_partab (s : State) : (s.unloadKeys).partab = s.partab := rfl
@[simp] theorem State.unloadKeys_outq (s : State) : (s.unloadKeys).outq = s.outq := rfl
@[simp] theorem State.unloadKeys_params (s : State) : (s.unloadKeys).params = s.params := rfl
@[simp] theorem State.unloadKeys_input (s : State) : (s.unloadKeys).input = s.input := rfl
@[simp] theorem State.unloadKeys_seen (s : State) : (s.unloadKeys).seen = s.seen := rfl
@[simp] theorem State.unloadKeys_freeCount (s : State) : (s.unloadKeys).freeCount = if s.anyKeyValid then s.freeCount + 1 else s.freeCount := rfl

/-! ## `State.buildTables` -/

@[simp] theorem State.buildTables_x (s : State) : (s.buildTables).x = s.x := rfl
@[simp] theorem State.buildTables_acc (s : State) : (s.buildTables).acc = s.acc := rfl
@[simp] theorem State.buildTables_k (s : State) : (s.buildTables).k = s.k := rfl
@[simp] theorem State.buildTables_kvalid (s : State) : (s.buildTables).kvalid = s.kvalid := rfl
@[simp] theorem State.buildTables_ready (s : State) : (s.buildTables).ready = true := rfl
@[simp] theorem State.buildTables_fault (s : State) : (s.buildTables).fault = s.fault := rfl
@[simp] theorem State.buildTables_errcode (s : State) : (s.buildTables).errcode = s.errcode := rfl
@[simp] theorem State.buildTables_errcmd (s : State) : (s.buildTables).errcmd = s.errcmd := rfl
@[simp] theorem State.buildTables_sptab (s : State) : (s.buildTables).sptab = .built s.params := rfl
@[simp] theorem State.buildTables_partab (s : State) : (s.buildTables).partab = .built := rfl
@[simp] theorem State.buildTables_outq (s : State) : (s.buildTables).outq = s.outq := rfl
@[simp] theorem State.buildTables_params (s : State) : (s.buildTables).params = s.params := rfl
@[simp] theorem State.buildTables_input (s : State) : (s.buildTables).input = s.input := rfl
@[simp] theorem State.buildTables_seen (s : State) : (s.buildTables).seen = s.seen := rfl
@[simp] theorem State.buildTables_freeCount (s : State) : (s.buildTables).freeCount = s.freeCount := rfl

/-! ## `State.raise` -/

@[simp] theorem State.raise_x (s : State) (c : Cause) (w : Word) : (s.raise c w).x = s.x := rfl
@[simp] theorem State.raise_acc (s : State) (c : Cause) (w : Word) : (s.raise c w).acc = s.acc := rfl
@[simp] theorem State.raise_k (s : State) (c : Cause) (w : Word) : (s.raise c w).k = s.k := rfl
@[simp] theorem State.raise_kvalid (s : State) (c : Cause) (w : Word) : (s.raise c w).kvalid = s.kvalid := rfl
@[simp] theorem State.raise_ready (s : State) (c : Cause) (w : Word) : (s.raise c w).ready = s.ready := rfl
@[simp] theorem State.raise_fault (s : State) (c : Cause) (w : Word) : (s.raise c w).fault = true := rfl
@[simp] theorem State.raise_errcode (s : State) (c : Cause) (w : Word) : (s.raise c w).errcode = c.code := rfl
@[simp] theorem State.raise_errcmd (s : State) (c : Cause) (w : Word) : (s.raise c w).errcmd = w := rfl
@[simp] theorem State.raise_sptab (s : State) (c : Cause) (w : Word) : (s.raise c w).sptab = s.sptab := rfl
@[simp] theorem State.raise_partab (s : State) (c : Cause) (w : Word) : (s.raise c w).partab = s.partab := rfl
@[simp] theorem State.raise_outq (s : State) (c : Cause) (w : Word) : (s.raise c w).outq = s.outq := rfl
@[simp] theorem State.raise_params (s : State) (c : Cause) (w : Word) : (s.raise c w).params = s.params := rfl
@[simp] theorem State.raise_input (s : State) (c : Cause) (w : Word) : (s.raise c w).input = s.input := rfl
@[simp] theorem State.raise_seen (s : State) (c : Cause) (w : Word) : (s.raise c w).seen = s.seen := rfl
@[simp] theorem State.raise_freeCount (s : State) (c : Cause) (w : Word) : (s.raise c w).freeCount = s.freeCount := rfl

/-! ## `State.hostReset` -/

@[simp] theorem State.hostReset_x (s : State) : (s.hostReset).x = State.reset.x := rfl
@[simp] theorem State.hostReset_acc (s : State) : (s.hostReset).acc = 0 := rfl
@[simp] theorem State.hostReset_k (s : State) : (s.hostReset).k = State.reset.k := rfl
@[simp] theorem State.hostReset_kvalid (s : State) : (s.hostReset).kvalid = State.reset.kvalid := rfl
@[simp] theorem State.hostReset_ready (s : State) : (s.hostReset).ready = false := rfl
@[simp] theorem State.hostReset_fault (s : State) : (s.hostReset).fault = false := rfl
@[simp] theorem State.hostReset_errcode (s : State) : (s.hostReset).errcode = 0 := rfl
@[simp] theorem State.hostReset_errcmd (s : State) : (s.hostReset).errcmd = 0 := rfl
@[simp] theorem State.hostReset_sptab (s : State) : (s.hostReset).sptab = .unspecified := rfl
@[simp] theorem State.hostReset_partab (s : State) : (s.hostReset).partab = .unspecified := rfl
@[simp] theorem State.hostReset_outq (s : State) : (s.hostReset).outq = [] := rfl
@[simp] theorem State.hostReset_params (s : State) : (s.hostReset).params = s.params := rfl
@[simp] theorem State.hostReset_input (s : State) : (s.hostReset).input = s.input := rfl
@[simp] theorem State.hostReset_seen (s : State) : (s.hostReset).seen = s.seen := rfl
@[simp] theorem State.hostReset_freeCount (s : State) : (s.hostReset).freeCount = s.freeCount := rfl

/-! ## `State.present` -/

@[simp] theorem State.present_x (s : State) (a : HostAction) : (s.present a).x = s.x := rfl
@[simp] theorem State.present_acc (s : State) (a : HostAction) : (s.present a).acc = s.acc := rfl
@[simp] theorem State.present_k (s : State) (a : HostAction) : (s.present a).k = s.k := rfl
@[simp] theorem State.present_kvalid (s : State) (a : HostAction) : (s.present a).kvalid = s.kvalid := rfl
@[simp] theorem State.present_ready (s : State) (a : HostAction) : (s.present a).ready = s.ready := rfl
@[simp] theorem State.present_fault (s : State) (a : HostAction) : (s.present a).fault = s.fault := rfl
@[simp] theorem State.present_errcode (s : State) (a : HostAction) : (s.present a).errcode = s.errcode := rfl
@[simp] theorem State.present_errcmd (s : State) (a : HostAction) : (s.present a).errcmd = s.errcmd := rfl
@[simp] theorem State.present_sptab (s : State) (a : HostAction) : (s.present a).sptab = s.sptab := rfl
@[simp] theorem State.present_partab (s : State) (a : HostAction) : (s.present a).partab = s.partab := rfl
@[simp] theorem State.present_outq (s : State) (a : HostAction) : (s.present a).outq = s.outq := rfl
@[simp] theorem State.present_params (s : State) (a : HostAction) : (s.present a).params = s.params := rfl
@[simp] theorem State.present_input (s : State) (a : HostAction) : (s.present a).input = a :: s.input := rfl
@[simp] theorem State.present_seen (s : State) (a : HostAction) : (s.present a).seen = s.seen := rfl
@[simp] theorem State.present_freeCount (s : State) (a : HostAction) : (s.present a).freeCount = s.freeCount := rfl

/-! ## `State.record` -/

@[simp] theorem State.record_x (s : State) (e : HostSeen) : (s.record e).x = s.x := rfl
@[simp] theorem State.record_acc (s : State) (e : HostSeen) : (s.record e).acc = s.acc := rfl
@[simp] theorem State.record_k (s : State) (e : HostSeen) : (s.record e).k = s.k := rfl
@[simp] theorem State.record_kvalid (s : State) (e : HostSeen) : (s.record e).kvalid = s.kvalid := rfl
@[simp] theorem State.record_ready (s : State) (e : HostSeen) : (s.record e).ready = s.ready := rfl
@[simp] theorem State.record_fault (s : State) (e : HostSeen) : (s.record e).fault = s.fault := rfl
@[simp] theorem State.record_errcode (s : State) (e : HostSeen) : (s.record e).errcode = s.errcode := rfl
@[simp] theorem State.record_errcmd (s : State) (e : HostSeen) : (s.record e).errcmd = s.errcmd := rfl
@[simp] theorem State.record_sptab (s : State) (e : HostSeen) : (s.record e).sptab = s.sptab := rfl
@[simp] theorem State.record_partab (s : State) (e : HostSeen) : (s.record e).partab = s.partab := rfl
@[simp] theorem State.record_outq (s : State) (e : HostSeen) : (s.record e).outq = s.outq := rfl
@[simp] theorem State.record_params (s : State) (e : HostSeen) : (s.record e).params = s.params := rfl
@[simp] theorem State.record_input (s : State) (e : HostSeen) : (s.record e).input = s.input := rfl
@[simp] theorem State.record_seen (s : State) (e : HostSeen) : (s.record e).seen = s.seen ++ [e] := rfl
@[simp] theorem State.record_freeCount (s : State) (e : HostSeen) : (s.record e).freeCount = s.freeCount := rfl

end Sys2Proof.Machine
end

