-- ==== Sys2Proof/Laws/Ops.lean ====
section
/-! SUPPORT. For each shared operation, what it can do, said once. -/

namespace Sys2Proof.Machine

/-! ## Registers -/

theorem State.readX_writeX (s : State) (r q : DReg) (v : Block) :
    (s.writeX r v).readX q = if q = r then v else s.readX q := by
  by_cases h : q = r
  · subst h; simp [State.readX]
  · have : r.val ≠ q.val := fun e => h (Fin.ext e.symm)
    simp [State.readX, h, this]

@[simp] theorem State.readX_writeX_same (s : State) (r : DReg) (v : Block) : (s.writeX r v).readX r = v := by
  simp [State.readX_writeX]

theorem State.readX_writeX_other (s : State) {r q : DReg} (v : Block) (h : q ≠ r) :
    (s.writeX r v).readX q = s.readX q := by
  simp [State.readX_writeX, h]

/-! ## Keys -/

theorem State.readKey_loadKey (s : State) (n m : Nat) (v : Block) (hn : n < 7) :
    (s.loadKey n v).readKey m = if m = n then v else s.readKey m := by
  by_cases h : m = n
  · subst h; simp [State.readKey, hn]
  · have : n ≠ m := fun e => h e.symm
    simp [State.readKey, h, this]

theorem State.keyValid_loadKey (s : State) (n m : Nat) (v : Block) (hn : n < 7) :
    (s.loadKey n v).keyValid m = if m = n then true else s.keyValid m := by
  by_cases h : m = n
  · subst h; simp [State.keyValid, hn]
  · have : n ≠ m := fun e => h e.symm
    simp [State.keyValid, h, this]

@[simp] theorem State.keyValid_unloadKeys (s : State) (n : Nat) : s.unloadKeys.keyValid n = false := by
  by_cases h : n < 7
  · simp [State.keyValid, h]
  · simp [State.keyValid, h]

theorem State.allKeysValid_iff (s : State) : s.allKeysValid = true ↔ ∀ n < 7, s.keyValid n = true := by
  simp [State.allKeysValid]

theorem State.anyKeyValid_eq_false_iff (s : State) : s.anyKeyValid = false ↔ ∀ n < 7, s.keyValid n = false := by
  simp [State.anyKeyValid]

/-! ## Tables -/

@[simp] theorem State.readSptab_buildTables (s : State) (i : Block) : s.buildTables.readSptab i = spf s.params i := rfl

@[simp] theorem State.readPartab_buildTables (s : State) (i : Block) : s.buildTables.readPartab i = par i := rfl

/-- A read of `SPTAB` depends on the table alone (R34). -/
theorem State.readSptab_congr {s t : State} (h : s.sptab = t.sptab) (i : Block) : s.readSptab i = t.readSptab i := by
  unfold State.readSptab; rw [h]

/-- A read of `PARTAB` depends on the table alone (R34). -/
theorem State.readPartab_congr {s t : State} (h : s.partab = t.partab) (i : Block) :
    s.readPartab i = t.readPartab i := by
  unfold State.readPartab; rw [h]

/-! ## The command template (R63) -/

/-- Everything `runCommand` can do: discard, `IllegalCmd`, `NotReady`, or the command's own part. -/
theorem State.runCommand_cases (s : State) (i : Instr) (body : State → State) :
    (s.fault = true ∧ s.runCommand i body = s) ∨
    (s.fault = false ∧ i.wf = false ∧ s.runCommand i body = s.raise .illegalCmd (encode i)) ∨
    (s.fault = false ∧ i.wf = true ∧ needsReady i = true ∧ s.ready = false ∧
      s.runCommand i body = s.raise .notReady (encode i)) ∨
    (s.fault = false ∧ i.wf = true ∧ (needsReady i = true → s.ready = true) ∧ s.runCommand i body = body s) := by
  unfold State.runCommand
  cases hf : s.fault <;> cases hw : i.wf <;> cases hn : needsReady i <;> cases hr : s.ready <;> simp

@[simp] theorem State.runCommand_faulted {s : State} (h : s.fault = true) (i : Instr) (body : State → State) :
    s.runCommand i body = s := by
  simp [State.runCommand, h]

theorem State.runCommand_illFormed {s : State} (h : s.fault = false) {i : Instr} (hw : i.wf = false)
    (body : State → State) : s.runCommand i body = s.raise .illegalCmd (encode i) := by
  simp [State.runCommand, h, hw]

theorem State.runCommand_notReady {s : State} (h : s.fault = false) {i : Instr} (hw : i.wf = true)
    (hn : needsReady i = true) (hr : s.ready = false) (body : State → State) :
    s.runCommand i body = s.raise .notReady (encode i) := by
  simp [State.runCommand, h, hw, hn, hr]

/-- The command's own part runs when the unit is not faulted, the command is legal, and it is ready if it must be. -/
theorem State.runCommand_runs {s : State} (h : s.fault = false) {i : Instr} (hw : i.wf = true)
    (hr : needsReady i = true → s.ready = true) (body : State → State) : s.runCommand i body = body s := by
  cases hn : needsReady i
  · simp [State.runCommand, h, hw, hn]
  · simp [State.runCommand, h, hw, hr hn]

theorem State.runIllegal_cases (s : State) (w : Word) :
    (s.fault = true ∧ s.runIllegal w = s) ∨ (s.fault = false ∧ s.runIllegal w = s.raise .illegalCmd w) := by
  unfold State.runIllegal
  cases s.fault <;> simp

/-! ## The host -/

theorem State.hostPop_cases (s : State) :
    (s.outq = [] ∧ s.hostPop = s) ∨
    (∃ w rest, s.outq = w :: rest ∧ s.hostPop = { s with outq := rest, seen := s.seen ++ [.word w] }) := by
  unfold State.hostPop
  cases h : s.outq with
  | nil => simp
  | cons w rest => simp

@[simp] theorem State.nextAction_nil {s : State} (h : s.input = []) : s.nextAction = none := by
  simp [State.nextAction, h]

theorem State.nextAction_cons {s : State} {a : HostAction} {rest : List HostAction} (h : s.input = a :: rest) :
    s.nextAction = some (a, { s with input := rest }) := by
  simp [State.nextAction, h]

/-- What is presented is what comes next, in the state as it was. -/
@[simp] theorem State.nextAction_present (s : State) (a : HostAction) : (s.present a).nextAction = some (a, s) := rfl

/-! ## The step -/

/-- Everything a step can do: idle, or one action of the host. -/
theorem step_cases (s : State) :
    (s.input = [] ∧ step s = .next s) ∨
    (∃ a rest, s.input = a :: rest ∧ step s = runAction a { s with input := rest }) := by
  cases h : s.input with
  | nil => left; exact ⟨rfl, by simp [step, h]⟩
  | cons a rest => right; exact ⟨a, rest, rfl, by simp [step, State.nextAction_cons h]⟩

theorem step_of_input {s : State} {a : HostAction} {rest : List HostAction} (h : s.input = a :: rest) :
    step s = runAction a { s with input := rest } := by
  simp [step, State.nextAction_cons h]

/-- The step runs the action just presented. -/
theorem step_present (s : State) (a : HostAction) : step (s.present a) = runAction a s := rfl

end Sys2Proof.Machine
end

