-- ==== Sys2Proof/Laws/Exec.lean ====
section
/-! SUPPORT. Everything executing a command can do, said once: discard, one fault, or the command's one update of
the state. Statements about all commands go by cases on `exec_cases` and then on the command in `done`. -/

namespace Sys2Proof.Machine

/-- What a command does once nothing stops it: one named update of the state. -/
def done (i : Instr) (s : State) : State :=
  match i with
  | .init => if s.ready then s else s.buildTables
  | .ldi rd imm => s.writeX rd imm
  | .xor rd rs1 rs2 => s.writeX rd (s.readX rs1 ^^^ s.readX rs2)
  | .out rs1 => s.emit [zext32 (s.readX rs1)]
  | .outa => s.emit [s.acc]
  | .sub rd rs1 => s.writeX rd (s16 s.params (s.readX rs1))
  | .isub rd rs1 => s.writeX rd (is16 s.params (s.readX rs1))
  | .perm rd rs1 => s.writeX rd (p16 s.params (s.readX rs1))
  | .sp rd rs1 => s.writeX rd (s.readSptab (s.readX rs1))
  | .par rd rs1 => s.writeX rd (bitBlock (s.readPartab (s.readX rs1)))
  | .dot rd rs1 rs2 => s.writeX rd (bitBlock (s.readPartab (s.readX rs1 &&& s.readX rs2)))
  | .ldk k imm => s.loadKey k imm
  | .kclr => s.unloadKeys
  | .round rd rs1 rs2 => s.writeX rd (roundWith s.readSptab (s.readX rs1) (s.readX rs2))
  | .rndk rd rs1 k => s.writeX rd (roundWith s.readSptab (s.readX rs1) (s.readKey k))
  | .enc rd rs1 => s.writeX rd (encWith s.readSptab s.readKey (s.readX rs1))
  | .isp rd rs1 => s.writeX rd (ispf s.params (s.readX rs1))
  | .decr rd rs1 rs2 => s.writeX rd (decRound s.params (s.readX rs1) (s.readX rs2))
  | .lent rs1 rs2 f => s.setAcc (s.entryValue .linear f (s.readX rs1) (s.readX rs2))
  | .dent rs1 rs2 f => s.setAcc (s.entryValue .differential f (s.readX rs1) (s.readX rs2))
  | .lrow rs1 f => s.emit (s.rowWords .linear f (s.readX rs1))
  | .drow rs1 f => s.emit (s.rowWords .differential f (s.readX rs1))
  | .ltab f => s.emit (s.tableWords .linear f)
  | .dtab f => s.emit (s.tableWords .differential f)

/-- The condition under which a command of an unfaulted unit stops with a cause. -/
inductive Stops (i : Instr) (s : State) : Cause → Prop where
  | illegalCmd (hw : i.wf = false) : Stops i s .illegalCmd
  | notReady (hw : i.wf = true) (hn : needsReady i = true) (hr : s.ready = false) : Stops i s .notReady
  | cfgInvalid (hi : i = .init) (hr : s.ready = false) (hc : ¬ ConfigValid s.params) : Stops i s .cfgInvalid
  | roundKey (rd rs1 : DReg) (k : KeyField) (hi : i = .rndk rd rs1 k) (hw : i.wf = true) (hr : s.ready = true)
      (hk : s.keyValid k = false) : Stops i s .keyInvalid
  | keySet (rd rs1 : DReg) (hi : i = .enc rd rs1) (hr : s.ready = true) (hk : s.allKeysValid = false) :
      Stops i s .keyInvalid
  | keyLocked (k : KeyField) (imm : Block) (hi : i = .ldk k imm) (hw : i.wf = true) (hk : s.keyValid k = true) :
      Stops i s .keyLocked

/-- Everything a command can do. -/
theorem exec_cases (i : Instr) (s : State) :
    (s.fault = true ∧ exec i s = .next s) ∨
    (s.fault = false ∧ ∃ c, Stops i s c ∧ exec i s = .next (s.raise c (encode i))) ∨
    (s.fault = false ∧ i.wf = true ∧ (needsReady i = true → s.ready = true) ∧ (∀ c, ¬ Stops i s c) ∧
      exec i s = .next (done i s)) := by
  have lift : ∀ body : State → State, exec i s = .next (s.runCommand i body) →
      (s.fault = false → i.wf = true → (needsReady i = true → s.ready = true) →
        (∃ c, Stops i s c ∧ body s = s.raise c (encode i)) ∨ ((∀ c, ¬ Stops i s c) ∧ body s = done i s)) →
      (s.fault = true ∧ exec i s = .next s) ∨
      (s.fault = false ∧ ∃ c, Stops i s c ∧ exec i s = .next (s.raise c (encode i))) ∨
      (s.fault = false ∧ i.wf = true ∧ (needsReady i = true → s.ready = true) ∧ (∀ c, ¬ Stops i s c) ∧
        exec i s = .next (done i s)) := by
    intro body he hb
    rcases s.runCommand_cases i body with ⟨hf, h⟩ | ⟨hf, hw, h⟩ | ⟨hf, hw, hn, hr, h⟩ | ⟨hf, hw, hr, h⟩
    · exact .inl ⟨hf, by rw [he, h]⟩
    · exact .inr (.inl ⟨hf, _, .illegalCmd hw, by rw [he, h]⟩)
    · exact .inr (.inl ⟨hf, _, .notReady hw hn hr, by rw [he, h]⟩)
    · rcases hb hf hw hr with ⟨c, hc, hd⟩ | ⟨hc, hd⟩
      · exact .inr (.inl ⟨hf, c, hc, by rw [he, h, hd]⟩)
      · exact .inr (.inr ⟨hf, hw, hr, hc, by rw [he, h, hd]⟩)
  -- a command without a check of its own stops for no other reason
  have plain : i ≠ .init → (∀ rd rs1 k, i ≠ .rndk rd rs1 k) → (∀ rd rs1, i ≠ .enc rd rs1) →
      (∀ k imm, i ≠ .ldk k imm) → i.wf = true → (needsReady i = true → s.ready = true) → ∀ c, ¬ Stops i s c := by
    intro h1 h2 h3 h4 hw hr c hc
    cases hc with
    | illegalCmd h => simp [h] at hw
    | notReady _ hn h => simp [hr hn] at h
    | cfgInvalid h => exact h1 h
    | roundKey rd rs1 k h => exact h2 rd rs1 k h
    | keySet rd rs1 h => exact h3 rd rs1 h
    | keyLocked k imm h => exact h4 k imm h
  cases i with
  | init =>
    refine lift _ rfl fun hf hw hr => ?_
    by_cases h : s.ready = true
    · refine .inr ⟨fun c hc => ?_, by simp [done, h]⟩
      cases hc <;> simp_all [needsReady]
    · by_cases hv : ConfigValid s.params
      · refine .inr ⟨fun c hc => ?_, by simp only [done, h, if_false, Bool.false_eq_true]; exact if_pos hv⟩
        cases hc with
        | cfgInvalid _ _ hc => exact hc hv
        | notReady _ hn => simp [needsReady] at hn
        | illegalCmd h => simp [h] at hw
        | roundKey _ _ _ h => cases h
        | keySet _ _ h => cases h
        | keyLocked _ _ h => cases h
      · exact .inl ⟨_, .cfgInvalid rfl (by simpa using h) hv,
          by simp only [h, if_false, Bool.false_eq_true]; exact if_neg hv⟩
  | ldk k imm =>
    refine lift _ rfl fun hf hw hr => ?_
    cases hk : s.keyValid k
    · refine .inr ⟨fun c hc => ?_, by simp [done]⟩
      cases hc <;> simp_all [needsReady]
    · exact .inl ⟨_, .keyLocked k imm rfl hw hk, by simp⟩
  | rndk rd rs1 k =>
    refine lift _ rfl fun hf hw hr => ?_
    cases hk : s.keyValid k
    · exact .inl ⟨_, .roundKey rd rs1 k rfl hw (hr rfl) hk, by simp⟩
    · refine .inr ⟨fun c hc => ?_, by simp [done]⟩
      cases hc <;> simp_all
  | enc rd rs1 =>
    refine lift _ rfl fun hf hw hr => ?_
    cases hk : s.allKeysValid
    · exact .inl ⟨_, .keySet rd rs1 rfl (hr rfl) hk, by simp⟩
    · refine .inr ⟨fun c hc => ?_, by simp [done]⟩
      cases hc <;> simp_all
  | _ => exact lift _ rfl fun hf hw hr => .inr ⟨plain (by simp) (by simp) (by simp) (by simp) hw hr, rfl⟩

/-- A command of an unfaulted unit that nothing stops does what `done` says. -/
theorem exec_done {i : Instr} {s : State} (hf : s.fault = false) (h : ∀ c, ¬ Stops i s c) :
    exec i s = .next (done i s) := by
  rcases exec_cases i s with ⟨h', _⟩ | ⟨_, c, hc, _⟩ | ⟨_, _, _, _, he⟩
  · simp [hf] at h'
  · exact absurd hc (h c)
  · exact he

/-- A command of an unfaulted unit that a cause stops raises that cause: no two causes stop one command. -/
theorem Stops.unique {i : Instr} {s : State} {c d : Cause} (hc : Stops i s c) (hd : Stops i s d) : c = d := by
  cases hc <;> cases hd <;> first | rfl | (exfalso; simp_all [needsReady, Instr.wf])

end Sys2Proof.Machine
end

