-- ==== Sys2Proof/Laws/PerInstr.lean ====
section
/-! SUPPORT. Statements about every command as syntax, one lemma per constructor. -/

namespace Sys2Proof.Laws.OpByte

/-- The value of `op` of each command (R56, column `op`). -/
def opcode : Instr → BitVec 8
  | .init => 0x01
  | .ldi _ _ => 0x02
  | .xor _ _ _ => 0x03
  | .out _ => 0x04
  | .outa => 0x05
  | .sub _ _ => 0x10
  | .isub _ _ => 0x11
  | .perm _ _ => 0x12
  | .sp _ _ => 0x13
  | .par _ _ => 0x14
  | .dot _ _ _ => 0x15
  | .ldk _ _ => 0x20
  | .kclr => 0x21
  | .round _ _ _ => 0x22
  | .rndk _ _ _ => 0x23
  | .enc _ _ => 0x24
  | .isp _ _ => 0x25
  | .decr _ _ _ => 0x26
  | .lent _ _ _ => 0x30
  | .dent _ _ _ => 0x31
  | .lrow _ _ => 0x32
  | .drow _ _ => 0x33
  | .ltab _ => 0x34
  | .dtab _ => 0x35

/-- The encoded word of a command carries its opcode. -/
def Statement (i : Instr) : Prop := opField (encode i) = opcode i

theorem init : Statement .init := opField_packR ..
theorem ldi (rd : DReg) (imm : Block) : Statement (.ldi rd imm) := opField_packI ..
theorem xor (rd rs1 rs2 : DReg) : Statement (.xor rd rs1 rs2) := opField_packR ..
theorem out (rs1 : DReg) : Statement (.out rs1) := opField_packR ..
theorem outa : Statement .outa := opField_packR ..
theorem sub (rd rs1 : DReg) : Statement (.sub rd rs1) := opField_packR ..
theorem isub (rd rs1 : DReg) : Statement (.isub rd rs1) := opField_packR ..
theorem perm (rd rs1 : DReg) : Statement (.perm rd rs1) := opField_packR ..
theorem sp (rd rs1 : DReg) : Statement (.sp rd rs1) := opField_packR ..
theorem par (rd rs1 : DReg) : Statement (.par rd rs1) := opField_packR ..
theorem dot (rd rs1 rs2 : DReg) : Statement (.dot rd rs1 rs2) := opField_packR ..
theorem ldk (k : KeyField) (imm : Block) : Statement (.ldk k imm) := opField_packI ..
theorem kclr : Statement .kclr := opField_packR ..
theorem round (rd rs1 rs2 : DReg) : Statement (.round rd rs1 rs2) := opField_packR ..
theorem rndk (rd rs1 : DReg) (k : KeyField) : Statement (.rndk rd rs1 k) := opField_packR ..
theorem enc (rd rs1 : DReg) : Statement (.enc rd rs1) := opField_packR ..
theorem isp (rd rs1 : DReg) : Statement (.isp rd rs1) := opField_packR ..
theorem decr (rd rs1 rs2 : DReg) : Statement (.decr rd rs1 rs2) := opField_packR ..
theorem lent (rs1 rs2 : DReg) (f : Fmt) : Statement (.lent rs1 rs2 f) := opField_packR ..
theorem dent (rs1 rs2 : DReg) (f : Fmt) : Statement (.dent rs1 rs2 f) := opField_packR ..
theorem lrow (rs1 : DReg) (f : Fmt) : Statement (.lrow rs1 f) := opField_packR ..
theorem drow (rs1 : DReg) (f : Fmt) : Statement (.drow rs1 f) := opField_packR ..
theorem ltab (f : Fmt) : Statement (.ltab f) := opField_packR ..
theorem dtab (f : Fmt) : Statement (.dtab f) := opField_packR ..

end Sys2Proof.Laws.OpByte
end

