-- ==== Sys2Proof/Laws/Probability.lean ====
section
/-! SUPPORT. The enumeration of all blocks, and the length of a row. -/

namespace Sys2Proof.Machine

theorem blocks_eq : blocks = (List.range 65536).map (BitVec.ofNat 16) := by unfold blocks; rfl

@[simp] theorem mem_blocks (v : Block) : v ∈ blocks := by
  rw [blocks_eq, List.mem_map]
  exact ⟨v.toNat, List.mem_range.2 v.isLt, by simp⟩

@[simp] theorem length_blocks : blocks.length = 65536 := by rw [blocks_eq, List.length_map, List.length_range]

/-- The blocks stand in ascending order. -/
theorem blocks_ascending : blocks.Pairwise (fun a b => a.toNat < b.toNat) := by
  rw [blocks_eq, List.pairwise_map]
  refine List.Pairwise.imp_of_mem ?_ List.pairwise_lt_range
  intro a b ha hb h
  have ha := List.mem_range.1 ha
  have hb := List.mem_range.1 hb
  rw [BitVec.toNat_ofNat, BitVec.toNat_ofNat]
  omega

theorem nodup_blocks : blocks.Nodup :=
  blocks_ascending.imp fun h e => by rw [e] at h; exact Nat.lt_irrefl _ h

/-- A count over all blocks is the size of a set of blocks. -/
theorem countP_blocks (f : Block → Bool) : blocks.countP f = (Finset.univ.filter fun t : Block => f t = true).card := by
  have : (Finset.univ.filter fun t : Block => f t = true) = (blocks.filter f).toFinset := by
    ext t; simp
  rw [this, List.toFinset_card_of_nodup (nodup_blocks.filter f), List.countP_eq_length_filter]

theorem countP_blocks_le (f : Block → Bool) : blocks.countP f ≤ 65536 := by
  have := List.countP_le_length (p := f) (l := blocks)
  rwa [length_blocks] at this

end Sys2Proof.Machine
end

