-- ==== Sys2Proof/Laws/Run.lean ====
section
/-! SUPPORT. A presented word, a program and so many steps: one step of each, said once. -/

namespace Sys2Proof.Machine

/-- Everything a presented word can do: run its command, or be illegal. -/
theorem runWord_cases (w : Word) (s : State) :
    (∃ i, decode w = .ok i ∧ runWord w s = exec i s) ∨
    (∃ e, decode w = .error e ∧ runWord w s = .next (s.runIllegal w)) := by
  unfold runWord
  cases h : decode w with
  | ok i => exact .inl ⟨i, rfl, rfl⟩
  | error e => exact .inr ⟨e, rfl, rfl⟩

theorem runWord_faulted {s : State} (h : s.fault = true) (w : Word) : runWord w s = .next s := by
  rcases runWord_cases w s with ⟨i, _, he⟩ | ⟨_, _, he⟩
  · rcases exec_cases i s with ⟨_, hs⟩ | ⟨hf, _⟩ | ⟨hf, _⟩
    · rw [he, hs]
    · simp [h] at hf
    · simp [h] at hf
  · simp [he, State.runIllegal, h]

@[simp] theorem runProgram_nil (s : State) : runProgram [] s = .next s := rfl

theorem runProgram_cons {w : Word} {s t : State} (h : runWord w s = .next t) (ws : List Word) :
    runProgram (w :: ws) s = runProgram ws t := by
  simp only [runProgram, h]

@[simp] theorem runSteps_zero (s : State) : runSteps 0 s = .next s := rfl

theorem runSteps_succ {s t : State} (h : step s = .next t) (n : Nat) : runSteps (n + 1) s = runSteps n t := by
  simp only [runSteps, h]

/-- The first step of a program runs its first word, with the others still to come. -/
theorem step_withProgram (s : State) (w : Word) (ws : List Word) :
    step (s.withProgram (w :: ws)) = runWord w (s.withProgram ws) := rfl

end Sys2Proof.Machine
end

