-- ==== Sys2Proof/Laws/Transform.lean ====
section
/-! SUPPORT. The small lemmas of the pure functions: nibbles, parity, the moved bits of the permutation. -/

namespace Sys2Proof.Machine

/-! ## Nibbles -/

theorem getLsbD_nib (v : Block) (n i : Nat) (hi : i < 4) : (nib v n).getLsbD i = v.getLsbD (4 * n + i) := by
  simp [nib, hi]

/-- A block is its four nibbles. -/
theorem block_ext_nib {u v : Block} (h : ∀ n < 4, nib u n = nib v n) : u = v := by
  apply BitVec.eq_of_getLsbD_eq
  intro i hi
  have hn := h (i / 4) (by omega)
  have := congrArg (fun w => w.getLsbD (i % 4)) hn
  rw [getLsbD_nib _ _ _ (by omega), getLsbD_nib _ _ _ (by omega), show 4 * (i / 4) + i % 4 = i by omega] at this
  exact this

/-- Each nibble is mapped in its place (R73). -/
theorem nib_mapNibbles (g : Nibble → Nibble) (v : Block) {n : Nat} (hn : n < 4) :
    nib (mapNibbles g v) n = g (nib v n) := by
  apply BitVec.eq_of_getLsbD_eq
  intro i hi
  rw [getLsbD_nib _ _ _ hi]
  interval_cases n <;> interval_cases i <;> simp [mapNibbles]

theorem mapNibbles_mapNibbles (g k : Nibble → Nibble) (v : Block) :
    mapNibbles g (mapNibbles k v) = mapNibbles (fun u => g (k u)) v :=
  block_ext_nib fun n hn => by simp [nib_mapNibbles, hn]

/-! ## Parity -/

theorem parUpTo_xor (a b : Block) (n : Nat) : parUpTo (a ^^^ b) n = (parUpTo a n ^^ parUpTo b n) := by
  induction n with
  | zero => rfl
  | succ n ih =>
    simp only [parUpTo, ih, BitVec.getLsbD_xor]
    cases parUpTo a n <;> cases parUpTo b n <;> cases a.getLsbD n <;> cases b.getLsbD n <;> rfl

@[simp] theorem parUpTo_zero (n : Nat) : parUpTo 0#16 n = false := by
  induction n with
  | zero => rfl
  | succ n ih => simp [parUpTo, ih]

/-! ## The bit permutation -/

theorem p16UpTo_xor (p : Params) (a b : Block) (n : Nat) :
    p16UpTo p (a ^^^ b) n = p16UpTo p a n ^^^ p16UpTo p b n := by
  induction n with
  | zero => simp [p16UpTo]
  | succ n ih =>
    have regroup : ∀ u v w : Block, u ^^^ v ^^^ w = u ^^^ (v ^^^ w) := BitVec.xor_assoc
    simp only [p16UpTo, ih, BitVec.getLsbD_xor]
    generalize 1#16 <<< (permAt p (BitVec.ofNat 4 n)).toNat = m
    cases a.getLsbD n <;> cases b.getLsbD n
    · simp
    · simp [regroup]
    · simp only [Bool.xor_false, if_true, if_false, Bool.false_eq_true, BitVec.ofNat_eq_ofNat,
        BitVec.xor_zero]
      rw [regroup, regroup, BitVec.xor_comm m]
    · simp only [Bool.xor_self, if_true, if_false, Bool.false_eq_true, BitVec.ofNat_eq_ofNat, BitVec.xor_zero]
      rw [regroup, ← regroup m, BitVec.xor_comm m, regroup, BitVec.xor_self, BitVec.xor_zero]

/-- With the lowest `n` bits moved, bit `PERM[i]` is bit `i`, where the permutation keeps those bits apart. -/
theorem getLsbD_p16UpTo (p : Params)
    (hinj : ∀ i < 16, ∀ j < 16, permAt p (BitVec.ofNat 4 i) = permAt p (BitVec.ofNat 4 j) → i = j)
    (v : Block) (n i : Nat) (hn : n ≤ 16) (hi : i < 16) :
    (p16UpTo p v n).getLsbD (permAt p (BitVec.ofNat 4 i)).toNat = (decide (i < n) && v.getLsbD i) := by
  have hlt : (permAt p (BitVec.ofNat 4 i)).toNat < 16 := (permAt p (BitVec.ofNat 4 i)).isLt
  induction n with
  | zero => simp [p16UpTo]
  | succ n ih =>
    have hbit : (1#16 <<< (permAt p (BitVec.ofNat 4 n)).toNat).getLsbD (permAt p (BitVec.ofNat 4 i)).toNat =
        decide (i = n) := by
      by_cases h : i = n
      · subst h; simp [hlt]
      · have hne : (permAt p (BitVec.ofNat 4 i)).toNat ≠ (permAt p (BitVec.ofNat 4 n)).toNat :=
          fun e => h (hinj i hi n (by omega) (BitVec.eq_of_toNat_eq e))
        simp [hlt, h]
        omega
    simp only [p16UpTo, BitVec.getLsbD_xor, ih (by omega)]
    by_cases h : i = n
    · subst h
      cases hv : v.getLsbD i <;> simp [hbit]
    · have : decide (i < n + 1) = decide (i < n) := by simp; omega
      rw [this]
      cases hv : v.getLsbD n <;> simp [hbit, h]

/-- Under valid parameters every bit is moved. -/
theorem p16_of_valid {p : Params} (h : ConfigValid p) (v : Block) : p16 p v = p16UpTo p v 16 := by
  rw [p16, if_pos h.2]

/-- The permutation of a valid configuration keeps bits apart (R6). -/
theorem permAt_injective {p : Params} (h : ConfigValid p) (i : Nat) (hi : i < 16) (j : Nat) (hj : j < 16)
    (e : permAt p (BitVec.ofNat 4 i) = permAt p (BitVec.ofNat 4 j)) : i = j := by
  have h1 := h.2 ⟨i, hi⟩
  have h2 := h.2 ⟨j, hj⟩
  have e' : permAt p (BitVec.ofFin ⟨i, hi⟩) = permAt p (BitVec.ofFin ⟨j, hj⟩) := by
    have ei : (BitVec.ofFin ⟨i, hi⟩ : Nibble) = BitVec.ofNat 4 i := by
      apply BitVec.eq_of_toNat_eq; simp [Nat.mod_eq_of_lt hi]
    have ej : (BitVec.ofFin ⟨j, hj⟩ : Nibble) = BitVec.ofNat 4 j := by
      apply BitVec.eq_of_toNat_eq; simp [Nat.mod_eq_of_lt hj]
    rw [ei, ej, e]
  rw [e', h2] at h1
  have := congrArg BitVec.toNat h1
  simpa using this.symm

end Sys2Proof.Machine
end

