-- ==== Sys2Proof/Tests/Slice0.lean ====
section
/-! SUPPORT. Tests, each expected value from spec/ (the file and section stand beside it), and for each statement
with hypotheses a state and operands that meet them. -/

namespace Sys2Proof.Machine

/-! ## Well-formedness: each check refuses an ill-formed term -/

theorem test_wf_refuses_ldk_key_7 : (Instr.ldk 7 0x0001).wf = false := by decide
theorem test_wf_refuses_rndk_key_7 : (Instr.rndk 3 1 7).wf = false := by decide
theorem test_wf_allows_key_6 : (Instr.ldk 6 0).wf = true ∧ (Instr.rndk 7 7 6).wf = true := by decide

/-! ## Decoding: one word of every command, written out bit by bit (R56; 95_test_vectors.md 7.1) -/

theorem test_decode_init : decode 0b00000001000000000000000000000000 = .ok .init := by decide
theorem test_decode_ldi : decode 0b00000010000100000001001000110100 = .ok (.ldi 1 0x1234) := by decide
theorem test_decode_xor : decode 0b00000011001100010010000000000000 = .ok (.xor 3 1 2) := by decide
theorem test_decode_out : decode 0b00000100000000100000000000000000 = .ok (.out 2) := by decide
theorem test_decode_outa : decode 0b00000101000000000000000000000000 = .ok .outa := by decide
theorem test_decode_sub : decode 0b00010000010000110000000000000000 = .ok (.sub 4 3) := by decide
theorem test_decode_isub : decode 0b00010001001000010000000000000000 = .ok (.isub 2 1) := by decide
theorem test_decode_perm : decode 0b00010010010001000000000000000000 = .ok (.perm 4 4) := by decide
theorem test_decode_sp : decode 0b00010011001000010000000000000000 = .ok (.sp 2 1) := by decide
theorem test_decode_par : decode 0b00010100001000010000000000000000 = .ok (.par 2 1) := by decide
theorem test_decode_dot : decode 0b00010101000000010010000000000000 = .ok (.dot 0 1 2) := by decide
theorem test_decode_ldk : decode 0b00100000011000000110110101111110 = .ok (.ldk 6 0x6D7E) := by decide
theorem test_decode_kclr : decode 0b00100001000000000000000000000000 = .ok .kclr := by decide
theorem test_decode_round : decode 0b00100010010100010010000000000000 = .ok (.round 5 1 2) := by decide
theorem test_decode_rndk : decode 0b00100011011101110110000000000000 = .ok (.rndk 7 7 6) := by decide
theorem test_decode_enc : decode 0b00100100001000010000000000000000 = .ok (.enc 2 1) := by decide
theorem test_decode_isp : decode 0b00100101011101010000000000000000 = .ok (.isp 7 5) := by decide
theorem test_decode_decr : decode 0b00100110011001010010000000000000 = .ok (.decr 6 5 2) := by decide
theorem test_decode_lent : decode 0b00110000000000010010000000000001 = .ok (.lent 1 2 .prob) := by decide
theorem test_decode_dent : decode 0b00110001000000010010000000000001 = .ok (.dent 1 2 .prob) := by decide
theorem test_decode_lrow : decode 0b00110010000000010000000000000001 = .ok (.lrow 1 .prob) := by decide
theorem test_decode_drow : decode 0b00110011000000010000000000000000 = .ok (.drow 1 .raw) := by decide
theorem test_decode_ltab : decode 0b00110100000000000000000000000001 = .ok (.ltab .prob) := by decide
theorem test_decode_dtab : decode 0b00110101000000000000000000000000 = .ok (.dtab .raw) := by decide

/-- The illegal words of 95_test_vectors.md 7.2. -/
theorem test_decode_illegal :
    [0x00000000, 0xFFFFFFFF, 0x06000000, 0x02800001, 0x02110000, 0x20700001, 0x23117000, 0x03123001, 0x04100000,
      0x01000001, 0x10121000, 0x30112000, 0x34000002, 0x13290000].map (decodeTableWord 32) =
    List.replicate 14 none := by decide

/-! ## States for the tests -/

/-- The identity configuration IDC (R7). -/
def idcParams : Params where
  sbox := #v[0, 1, 2, 3, 4, 5, 6, 7, 8, 9, 10, 11, 12, 13, 14, 15]
  sboxInv := #v[0, 1, 2, 3, 4, 5, 6, 7, 8, 9, 10, 11, 12, 13, 14, 15]
  perm := #v[0, 1, 2, 3, 4, 5, 6, 7, 8, 9, 10, 11, 12, 13, 14, 15]

/-- A unit right after reset with these parameters. -/
def fresh (p : Params) : State := { State.reset with params := p }

/-- A unit after a successful `INIT`. -/
def ready (p : Params) : State := (fresh p).buildTables

/-- The state an outcome goes on with. -/
def goOn (o : Host.Outcome State Fault Refusal) : State :=
  match o with
  | .next t => t
  | .fault _ => State.reset
  | .refused _ => State.reset

/-- The state after one command. -/
def after (i : Instr) (s : State) : State := goOn (exec i s)

/-- The keys of 95_test_vectors.md section 3. -/
def withKeys (s : State) : State :=
  { s with
    k := #v[0xA1B2, 0xC3D4, 0xE5F6, 0x0718, 0x293A, 0x4B5C, 0x6D7E]
    kvalid := #v[true, true, true, true, true, true, true] }

/-! ## One step of each command -/

/-- R64: from reset under REF, `INIT` gives `STATUS = 0x00000001`. -/
theorem test_init_status : (after .init (fresh refParams)).status = 0x00000001 := by decide
/-- 95_test_vectors.md P6: `SBOX[0] = 4` is no bijection. -/
theorem test_init_cfgInvalid :
    (after .init (fresh { refParams with sbox := refParams.sbox.set 0 4 })).status = 0x00010002 := by decide
/-- R65. -/
theorem test_ldi : (after (.ldi 1 0x1234) (fresh refParams)).readX 1 = 0x1234 := by decide
/-- R66. -/
theorem test_xor : (after (.xor 3 1 2) (((fresh refParams).writeX 1 0x1234).writeX 2 0x5A5A)).readX 3 = 0x486E := by
  decide
/-- R67. -/
theorem test_out : (after (.out 2) ((fresh refParams).writeX 2 0xA624)).outq = [0x0000A624] := by decide
/-- R68, 95_test_vectors.md section 8. -/
theorem test_outa : (after .outa (fresh refParams)).outq = [0x00000000] := by decide
/-- R78. -/
theorem test_sub : (after (.sub 4 3) ((ready refParams).writeX 3 0x486E)).readX 4 = 0x23B0 := by decide
/-- R79. -/
theorem test_isub : (after (.isub 2 1) ((ready refParams).writeX 1 0x4D12)).readX 2 = 0x1234 := by decide
/-- R80: the source is the destination. -/
theorem test_perm : (after (.perm 4 4) ((ready refParams).writeX 4 0x23B0)).readX 4 = 0x20E6 := by decide
/-- R81. -/
theorem test_sp : (after (.sp 2 1) ((ready refParams).writeX 1 0x1234)).readX 2 = 0x4C16 := by decide
/-- 95_test_vectors.md P4: `SP` before `INIT`. -/
theorem test_sp_notReady : (after (.sp 2 1) ((fresh refParams).writeX 1 0x1234)).status = 0x00030002 := by decide
/-- R82, 95_test_vectors.md 2.5. -/
theorem test_par_odd : (after (.par 2 1) ((ready refParams).writeX 1 0x1234)).readX 2 = 0x0001 := by decide
theorem test_par_even : (after (.par 1 1) ((ready refParams).writeX 1 0xFFFF)).readX 1 = 0x0000 := by decide
/-- R83. -/
theorem test_dot : (after (.dot 0 1 2) (((ready refParams).writeX 1 0x1234).writeX 2 0x5A5A)).readX 0 = 0x0001 := by
  decide
/-- R91. -/
theorem test_ldk : (after (.ldk 0 0xA1B2) (fresh refParams)).status = 0x00000100 := by decide
/-- R91: a second load. -/
theorem test_ldk_locked : (after (.ldk 0 0x0002) (after (.ldk 0 0xA1B2) (fresh refParams))).status = 0x00050102 := by
  decide
/-- R92. -/
theorem test_kclr :
    (after (.ldk 0 0x0002) (after .kclr (after (.ldk 0 0x0001) (fresh refParams)))).status = 0x00000100 := by decide
/-- R93. -/
theorem test_round :
    (after (.round 5 1 2) (((ready refParams).writeX 1 0x1234).writeX 2 0x5A5A)).readX 5 = 0x20E6 := by decide
/-- R94. -/
theorem test_rndk : (after (.rndk 3 1 0) ((withKeys (ready refParams)).writeX 1 0xBEEF)).readX 3 = 0x3E67 := by decide
/-- 95_test_vectors.md section 8: an unloaded key. -/
theorem test_rndk_keyInvalid :
    (after (.rndk 2 1 3) (after (.ldk 0 0x0001) (ready refParams))).status = 0x00040103 := by decide
/-- R95. -/
theorem test_enc : (after (.enc 2 1) ((withKeys (ready refParams)).writeX 1 0xBEEF)).readX 2 = 0xA624 := by
  decide +kernel
/-- R136: before `INIT` and without keys, `NotReady` comes first. -/
theorem test_enc_notReady_first : (after (.enc 2 1) (fresh refParams)).status = 0x00030002 := by decide
/-- R96. -/
theorem test_isp : (after (.isp 7 5) ((ready refParams).writeX 5 0x20E6)).readX 7 = 0x486E := by decide
/-- R97. -/
theorem test_decr :
    (after (.decr 6 5 2) (((ready refParams).writeX 5 0x20E6).writeX 2 0x5A5A)).readX 6 = 0x1234 := by decide

/-! ## Values and rows -/

/-- R107 and 95_test_vectors.md 6.2: a tie that stays, one rounded up, one rounded down. -/
theorem test_f32_linear :
    [2, 768, 13824, 16388, 46348, 23172, 65532, 65536].map (fun c => valueOf .linear .prob c) =
      [0x30800000, 0x39100000, 0x3D364000, 0x3D801000, 0x3F0009F9, 0x3E000450, 0x3F7FF800, 0x3F800000] := by decide
/-- 95_test_vectors.md 6.1. -/
theorem test_f32_differential :
    [0, 2, 6, 36, 1296, 24576, 65536].map (fun c => valueOf .differential .prob c) =
      [0x00000000, 0x38000000, 0x38C00000, 0x3A100000, 0x3CA20000, 0x3EC00000, 0x3F800000] := by decide
/-- R106. -/
theorem test_raw_sign : valueOf .linear .raw (-49152) = 0xFFFF4000 := by decide
/-- R108, from the rows of R112 and R113. -/
theorem test_rowHeader :
    rowHeader .linear .prob 0x000B = 0x8001000B ∧ rowHeader .differential .raw 0x000B = 0x8002000B := by decide

theorem sboxAt_idc (u : Nibble) : sboxAt idcParams u = u := by revert u; decide
theorem permAt_idc (u : Nibble) : permAt idcParams u = u := by revert u; decide
theorem idc_valid : ConfigValid idcParams := by decide

/-- 95_test_vectors.md 2.2: under IDC the combined transform is the identity. -/
theorem test_spf_idc (v : Block) : spf idcParams v = v := by
  have hs : s16 idcParams v = v :=
    block_ext_nib fun n hn => by rw [s16, nib_mapNibbles _ _ hn, sboxAt_idc]
  have hp : p16 idcParams v = v := by
    apply BitVec.eq_of_getLsbD_eq
    intro i hi
    have := getLsbD_p16UpTo idcParams (permAt_injective idc_valid) v 16 i (by omega) hi
    rw [permAt_idc] at this
    simpa [p16_of_valid idc_valid, hi, Nat.mod_eq_of_lt hi] using this
  rw [spf, hs, hp]

/-- A ready unit with `x1 = 8001` under IDC. -/
def idcState : State := (ready idcParams).writeX 1 0x8001

/-- Under IDC and with equal masks no `t` disagrees. -/
theorem lc_idc_same (a : Block) : lc (spf idcParams) par a a = 65536 := by
  have h : blocks.countP (disagrees (spf idcParams) par a a) = 0 := by
    simp [disagrees, test_spf_idc]
  rw [lc, h]; rfl

/-- Under IDC every `t` falls in the bin `b = a`. -/
theorem dc_idc (a b : Block) : dc (spf idcParams) a b = if b = a then 65536 else 0 := by
  have h : ∀ t : Block, (spf idcParams t ^^^ spf idcParams (t ^^^ a) == b) = decide (b = a) := by
    intro t
    rw [test_spf_idc, test_spf_idc, ← BitVec.xor_assoc, BitVec.xor_self, BitVec.zero_xor]
    by_cases hb : b = a
    · simp [hb]
    · have : ¬ a = b := fun e => hb e.symm
      simp [hb, this]
  unfold dc
  rw [funext h]
  split
  · rename_i hb; simp [hb]
  · rename_i hb; simp [hb]

/-- Nothing stops a table command of `idcState`. -/
theorem idcState_runs {i : Instr} (h1 : i ≠ .init) (h2 : ∀ rd rs1 k, i ≠ .rndk rd rs1 k)
    (h3 : ∀ rd rs1, i ≠ .enc rd rs1) (h4 : ∀ k imm, i ≠ .ldk k imm) (hw : i.wf = true) : exec i idcState = .next (done i idcState) := by
  refine exec_done rfl fun c hc => ?_
  cases hc with
  | illegalCmd h => simp [h] at hw
  | notReady _ _ h => cases h
  | cfgInvalid h => exact h1 h
  | roundKey rd rs1 k h => exact h2 rd rs1 k h
  | keySet rd rs1 h => exact h3 rd rs1 h
  | keyLocked k imm h => exact h4 k imm h

theorem idcState_x1 : idcState.readX 1 = 0x8001 := by decide
theorem idcState_sptab : idcState.readSptab = spf idcParams := rfl
theorem idcState_partab : idcState.readPartab = par := rfl
theorem idcState_outq : idcState.outq = [] := rfl

/-- 95_test_vectors.md 4.4: `LC(a, a) = 65536` under IDC. -/
theorem test_lent_idc : (after (.lent 1 1 .raw) idcState).acc = 0x00010000 := by
  rw [after, idcState_runs (by simp) (by simp) (by simp) (by simp) rfl]
  simp only [goOn, done, State.setAcc, State.entryValue, entryOf, idcState_sptab, idcState_partab, lc_idc_same]
  decide

/-- 95_test_vectors.md 5.4: `DC(a, a) = 65536` under IDC, as a probability. -/
theorem test_dent_idc : (after (.dent 1 1 .prob) idcState).acc = 0x3F800000 := by
  rw [after, idcState_runs (by simp) (by simp) (by simp) (by simp) rfl]
  simp only [goOn, done, State.setAcc, State.entryValue, entryOf, idcState_sptab, dc_idc, if_true]
  decide

/-- A list of parts of which only one is not empty. -/
theorem flatMap_single {α β : Type} {l : List α} {g : α → List β} {a : α} (hn : l.Nodup) (ha : a ∈ l)
    (h : ∀ b ∈ l, b ≠ a → g b = []) : l.flatMap g = g a := by
  induction l with
  | nil => simp at ha
  | cons c l ih =>
    rw [List.nodup_cons] at hn
    rw [List.flatMap_cons]
    rcases List.mem_cons.1 ha with rfl | ha
    · have : l.flatMap g = [] := List.flatMap_eq_nil_iff.2 fun b hb =>
        h b (List.mem_cons_of_mem _ hb) fun e => hn.1 (e ▸ hb)
      rw [this, List.append_nil]
    · have hc : c ≠ a := fun e => hn.1 (e ▸ ha)
      rw [h c List.mem_cons_self hc, List.nil_append]
      exact ih hn.2 ha fun b hb => h b (List.mem_cons_of_mem _ hb)

/-- 95_test_vectors.md 5.4: `DROW.F` with `a = 8001` under IDC. -/
theorem test_drow_idc :
    (after (.drow 1 .prob) idcState).outq = [0x80038001, 0x00008001, 0x3F800000, 0xFFFFFFFF] := by
  rw [after, idcState_runs (by simp) (by simp) (by simp) (by simp) rfl]
  simp only [goOn, done, State.emit, State.rowWords, idcState_sptab, idcState_partab, idcState_outq]
  have key : ∀ a : Block, (blocks.flatMap fun b =>
      entryWords .differential .prob b (entryOf .differential (spf idcParams) par a b)) =
      [a.setWidth 32, 0x3F800000] := by
    intro a
    rw [flatMap_single (a := a) nodup_blocks (mem_blocks _)]
    · rw [entryOf, dc_idc, if_pos rfl, entryWords, if_neg (by decide)]
      congr 1
    · intro b _ hb
      simp only [entryOf, dc_idc, if_neg hb, entryWords]; rfl
  simp only [row, key, idcState_x1]; decide

theorem head_row (v : Variant) (f : Fmt) (sp : Block → Block) (pa : Block → Bool) (a : Block) :
    (row v f sp pa a).head? = some (rowHeader v f a) := by
  rw [row, List.cons_append, List.head?_cons]

/-- R108, R112: the header of the row of `a = 8001` in format `.F`. -/
theorem test_lrow_header : (after (.lrow 1 .prob) idcState).outq.head? = some 0x80018001 := by
  have h : rowHeader .linear .prob 0x8001 = 0x80018001 := by decide
  rw [after, idcState_runs (by simp) (by simp) (by simp) (by simp) rfl]
  simp only [goOn, done, State.emit, State.rowWords, idcState_outq, List.nil_append, head_row, idcState_x1, h]

/-- R114, R115: the first word of either table. -/
theorem test_ltab_first : rowHeader .linear .raw 0x0000 = 0x80000000 := by decide
theorem test_dtab_first : rowHeader .differential .prob 0x0000 = 0x80030000 := by decide

/-! ## The step and the host -/

/-- 95_test_vectors.md section 8: an illegal word from reset. -/
theorem test_step_illegal :
    (goOn (step ((fresh refParams).present (.command 0x00000000)))).status = 0x00020002 := by decide
/-- R138: a faulted unit discards `LDI`. -/
theorem test_step_faulted :
    (goOn (step (((fresh refParams).raise .illegalCmd 0).present (.command 0x02101234)))).readX 1 = 0x0000 := by decide
/-- The next step runs the word that `withFetchWord` presents. -/
theorem test_withFetchWord : (goOn (step (State.reset.withFetchWord 32 0x02101234))).readX 1 = 0x1234 := by decide
/-- R28: the front word goes to the host. -/
theorem test_popOut :
    (goOn (step (((fresh refParams).emit [0x0000000A, 0x0000000B]).present .popOut))).outq = [0x0000000B] := by decide
/-- R60. -/
theorem test_assemble : assemble "RNDK x3, x1, k0 ; one round".toList = some (.rndk 3 1 0) := by decide
/-- R60: every digit reads back as its nibble. -/
theorem test_hexDigit : ∀ v : Nibble, hexValue (hexDigit v) = some v.toNat := by decide
/-- R60: decimal and hexadecimal digits of either case; what stands beside each range is no digit. -/
theorem test_digit_values :
    ['0', '9', 'A', 'F', 'a', 'f', '/', ':', '@', 'G', '`', 'g'].map hexValue =
      [some 0, some 9, some 10, some 15, some 10, some 15, none, none, none, none, none, none] ∧
    ['0', '9', 'A', 'a', '/', ':'].map decValue = [some 0, some 9, none, none, none, none] := by decide
/-- R60: an immediate in either notation, and the first decimal number that is none. -/
theorem test_parseImm :
    ["0x1234", "0xbeef", "65535", "65536", "0x", "0x12345"].map (fun s => parseImm s.toList) =
      [some 0x1234, some 0xBEEF, some 0xFFFF, none, none, none] := by decide
/-- R149: of a run from a state with a waiting word only the run's own word is observed. -/
theorem test_observe :
    (((fresh refParams).emit [0x0000000A]).observe
      (goOn (runProgram [0x02201234, 0x04020000] ((fresh refParams).emit [0x0000000A])))).emitted = [0x00001234] := by
  decide
/-- R38. -/
theorem test_blockOfBytes : blockOfBytes 0xB2 0xA1 = 0xA1B2 := by decide

/-! ## A state and operands that meet the hypotheses of each statement

A witness bears the name of its statement. The values stand at the ends of their ranges where a clause has a
range. -/

/-- The premises of a clause about a unit that is ready. -/
abbrev ReadyUnit (s : State) : Prop := s.fault = false ∧ s.ready = true ∧ TablesFrozen s ∧ ConfigValid s.params

/-- The premises of a clause about a unit that is not. -/
abbrev UnreadyUnit (s : State) : Prop := s.fault = false ∧ s.ready = false

theorem ref_valid : ConfigValid refParams := by decide

theorem tablesFrozen_ready {p : Params} (h : ConfigValid p) : TablesFrozen (ready p) :=
  fun _ => ⟨h, fun _ => rfl, fun _ => rfl⟩

theorem readyUnit_ref : ReadyUnit (ready refParams) := ⟨rfl, rfl, tablesFrozen_ready ref_valid, ref_valid⟩

theorem readyUnit_idc : ReadyUnit idcState := ⟨rfl, rfl, tablesFrozen_ready idc_valid, idc_valid⟩

theorem unreadyUnit_ref : UnreadyUnit (fresh refParams) := ⟨rfl, rfl⟩

/-- A faulted unit: `SP` before `INIT`. -/
def faulted : State := after (.sp 2 1) (fresh refParams)

/-- Parameters that are not valid (95_test_vectors.md P6). -/
def badParams : Params := { refParams with sbox := refParams.sbox.set 0 4 }

theorem bad_not_valid : ¬ ConfigValid badParams := by decide

theorem sound_fresh (p : Params) : (fresh p).Sound := by
  refine ⟨fun h => ?_, fun _ => ⟨rfl, rfl⟩, fun h => ?_⟩ <;> cases h

theorem witness_EncodedCommandsDecodeBack :
    (Instr.ldk 6 0xFFFF).wf = true ∧ (Instr.rndk 7 7 6).wf = true ∧ (Instr.dtab .prob).wf = true := by decide

theorem witness_LegalWordsAreEncodings : decode 0x2060FFFF = .ok (.ldk 6 0xFFFF) := by decide

theorem witness_DecodingFollowsOpcodeMap :
    (opcodeMap.any fun r => r.selects 0x23776000) = true ∧ (opcodeMap.any fun r => r.selects 0x23777000) = false := by
  decide

theorem witness_IllegalWordsRaiseIllegalCmd :
    IllegalWord 0x00000000 ∧ IllegalWord 0x02800001 ∧ IllegalWord 0x20700001 ∧ IllegalWord 0x34000002 ∧
      (fresh refParams).fault = false := by
  refine ⟨?_, ?_, ?_, ?_, rfl⟩ <;>
    simp [IllegalWord, layoutOf, opField, rdField, rs1Field, rs2Field, zeroField, fField, FieldUse.allows]

theorem witness_AssemblerTextReadsBack :
    (Instr.rndk 7 7 6).wf = true ∧ "WHITEN".toList ∈ ["KMIX".toList, "WHITEN".toList] := by
  decide

theorem witness_WordsOf : opField 0x20606D7E = 0x20 ∧ opField 0x20706D7E = 0x20 := by decide

theorem witness_StepRunsTheDecodedCommand :
    ((fresh refParams).present (.command 0x02101234)).input = .command 0x02101234 :: [] ∧
      decode 0x02101234 = .ok (.ldi 1 0x1234) ∧ (Instr.ldi 1 0x1234).wf = true ∧ (fresh refParams).input = [] := by
  decide

theorem witness_EveryStepKeepsSoundness :
    ∃ t, ((fresh refParams).present (.command 0x01000000)).Sound ∧
      step ((fresh refParams).present (.command 0x01000000)) = .next t ∧ t.ready = true :=
  ⟨_, sound_fresh refParams, rfl, by decide⟩

theorem witness_FaultIsStickyAndDiscardsCommands :
    faulted.fault = true ∧ faulted.input.head? ≠ some .reset ∧ (∃ t, step faulted = .next t) ∧
      ∃ t, (fresh refParams).fault = false ∧ step ((fresh refParams).present (.command 0)) = .next t ∧ t.fault = true :=
  ⟨rfl, by decide, ⟨_, rfl⟩, _, rfl, rfl, rfl⟩

theorem witness_FaultsArePrecise :
    ∃ t, (fresh refParams).fault = false ∧ step ((fresh refParams).present (.command 0x13210000)) = .next t ∧
      t.fault = true :=
  ⟨_, rfl, rfl, rfl⟩

/-- Each right-hand side of the statement holds somewhere, the key index at its end. -/
theorem witness_EachCauseHasItsCondition :
    (fresh refParams).fault = false ∧ (Instr.ldk 7 0).wf = false ∧
    ((Instr.sub 0 0).wf = true ∧ needsReady (.sub 0 0) = true ∧ (fresh refParams).ready = false) ∧
    ((fresh badParams).ready = false ∧ ¬ ConfigValid (fresh badParams).params) ∧
    ((ready refParams).ready = true ∧ (Instr.rndk 0 0 6).wf = true ∧ (ready refParams).keyValid 6 = false) ∧
    ((Instr.ldk 6 0).wf = true ∧ (withKeys (ready refParams)).keyValid 6 = true) := by
  refine ⟨rfl, by decide, ⟨by decide, rfl, rfl⟩, ⟨rfl, bad_not_valid⟩, ⟨rfl, by decide, by decide⟩, by decide, by decide⟩

/-- For each piece of state a command that changes it. -/
theorem witness_OnlyListedCommandsWriteEachPiece :
    (∃ t, exec (.ldi 7 1) (fresh refParams) = .next t ∧ t.x ≠ (fresh refParams).x) ∧
    (∃ t, exec (.ldk 6 1) (fresh refParams) = .next t ∧ t.kvalid ≠ (fresh refParams).kvalid) ∧
    (∃ t, exec .init (fresh refParams) = .next t ∧ t.ready ≠ (fresh refParams).ready) ∧
    (∃ t, exec (.out 7) (fresh refParams) = .next t ∧ t.outq ≠ (fresh refParams).outq) ∧
    (after (.lent 1 1 .raw) idcState).acc ≠ idcState.acc := by
  refine ⟨⟨_, rfl, by decide⟩, ⟨_, rfl, by decide⟩, ⟨_, rfl, by decide⟩, ⟨_, rfl, by decide⟩, ?_⟩
  rw [test_lent_idc]
  decide

theorem witness_ParametersAreReadOnly : ∃ t, exec (.ldi 7 1) (fresh refParams) = .next t := ⟨_, rfl⟩

theorem witness_ReadyTablesStayFrozen :
    ((ready refParams).ready = true ∧ (ready refParams).input.head? ≠ some .reset ∧
      ∃ t, step (ready refParams) = .next t) ∧
    ∃ t, (fresh refParams).ready = false ∧ step ((fresh refParams).present (.command 0x01000000)) = .next t ∧
      t.ready = true :=
  ⟨⟨rfl, by decide, _, rfl⟩, _, rfl, rfl, rfl⟩

theorem witness_LoadedKeysAreImmutable :
    (withKeys (ready refParams)).keyValid 6 = true ∧
      ((withKeys (ready refParams)).present (.command 0x20600000)).input.head? ≠ some .reset ∧
      ((withKeys (ready refParams)).present (.command 0x20600000)).input.head? ≠ some (.command (encode .kclr)) ∧
      ∃ t, step ((withKeys (ready refParams)).present (.command 0x20600000)) = .next t :=
  ⟨by decide, by decide, by decide, _, rfl⟩

theorem witness_UnreadableStateIsNeverSeen :
    SameReadable (fresh refParams)
      { fresh refParams with k := #v[1, 2, 3, 4, 5, 6, 7], sptab := .built refParams, partab := .built } := by
  refine ⟨rfl, fun n h => ?_, fun h => by cases h⟩
  have : ∀ n, (fresh refParams).keyValid n = false := by
    intro n
    by_cases hn : n < 7
    · interval_cases n <;> rfl
    · simp [State.keyValid, hn]
  simp [this] at h

theorem witness_KeyValuesReachOnlyRndkAndEnc :
    readsKeys (.sub 7 0) = false ∧
      SameButKeyValues (withKeys (ready refParams)) { withKeys (ready refParams) with k := #v[0, 0, 0, 0, 0, 0, 0] } :=
  ⟨rfl, rfl⟩

theorem witness_OutputQueueIsFirstInFirstOut :
    ((fresh refParams).input.head? ≠ some .reset ∧ ∃ t, step (fresh refParams) = .next t) ∧
      ((fresh refParams).emit [1, 2]).outq = 1 :: [2] ∧ (fresh refParams).outq = [] :=
  ⟨⟨by decide, _, rfl⟩, by decide, by decide⟩

theorem witness_RunsShowTheWordsTheyEmit :
    (∃ t u, runProgram [0x02201234] (fresh refParams) = .next t ∧ runProgram [0x04020000] t = .next u) ∧
      (∃ t, step (((fresh refParams).emit [1]).present .popOut) = .next t) ∧ ¬ faulted.proper :=
  ⟨⟨_, _, rfl, rfl⟩, ⟨_, rfl⟩, by decide⟩

/-- Every kind of bit, its first and its last position. -/
theorem witness_StatusWordBitByBit :
    (withKeys faulted).status = 0x00037F02 ∧ (ready refParams).status = 0x00000001 ∧
      [0, 1, 2, 7, 8, 14, 15, 16, 19, 20, 31].map (fun b => (withKeys faulted).status.getLsbD b) =
        [false, true, false, false, true, true, false, true, false, false, false] := by decide

theorem witness_InitValidatesThenBuildsOnce :
    ReadyUnit (ready refParams) ∧ (UnreadyUnit (fresh badParams) ∧ ¬ ConfigValid (fresh badParams).params) ∧
      UnreadyUnit (fresh refParams) ∧ ConfigValid (fresh refParams).params :=
  ⟨readyUnit_ref, ⟨⟨rfl, rfl⟩, bad_not_valid⟩, unreadyUnit_ref, ref_valid⟩

theorem witness_LdiLoadsTheImmediate : (fresh refParams).fault = false := rfl
theorem witness_XorAddsBlocks : (fresh refParams).fault = false := rfl
theorem witness_OutEmitsTheRegister : (fresh refParams).fault = false := rfl
theorem witness_OutaEmitsTheAccumulator : (fresh refParams).fault = false := rfl
theorem witness_SubSubstitutesNibbles : ReadyUnit (ready refParams) ∧ UnreadyUnit (fresh refParams) ∧ 3 < 4 :=
  ⟨readyUnit_ref, unreadyUnit_ref, by decide⟩

theorem witness_IsubInvertsSub :
    ReadyUnit (ready refParams) ∧ UnreadyUnit (fresh refParams) ∧
      (∃ t u, exec (.sub 2 1) (ready refParams) = .next t ∧ exec (.isub 2 2) t = .next u) ∧
      ∃ t u, exec (.isub 2 1) (ready refParams) = .next t ∧ exec (.sub 2 2) t = .next u :=
  ⟨readyUnit_ref, unreadyUnit_ref, ⟨_, _, rfl, rfl⟩, _, _, rfl, rfl⟩

theorem witness_PermMovesBits :
    ReadyUnit (ready refParams) ∧ UnreadyUnit (fresh refParams) ∧
      ∃ t u, exec (.perm 2 1) (ready refParams) = .next t ∧ exec (.perm 2 2) t = .next u :=
  ⟨readyUnit_ref, unreadyUnit_ref, _, _, rfl, rfl⟩

theorem witness_SpLooksUpTheCombinedTransform :
    ReadyUnit (ready refParams) ∧ UnreadyUnit (fresh refParams) ∧
      ∃ t u t', exec (.sub 2 1) (ready refParams) = .next t ∧ exec (.perm 3 2) t = .next u ∧
        exec (.sp 3 1) (ready refParams) = .next t' :=
  ⟨readyUnit_ref, unreadyUnit_ref, _, _, _, rfl, rfl, rfl⟩

theorem witness_ParCountsBitsModTwo : ReadyUnit (ready refParams) ∧ UnreadyUnit (fresh refParams) :=
  ⟨readyUnit_ref, unreadyUnit_ref⟩

theorem witness_DotIsTheInnerProduct :
    ReadyUnit (ready refParams) ∧ UnreadyUnit (fresh refParams) ∧ (ready refParams).readX 1 = 0 :=
  ⟨readyUnit_ref, unreadyUnit_ref, by decide⟩

theorem witness_LdkLoadsAKeyOnce :
    (fresh refParams).fault = false ∧ (6 : KeyField).val < 7 ∧ (fresh refParams).keyValid (6 : KeyField) = false ∧
      (withKeys (ready refParams)).fault = false ∧ (withKeys (ready refParams)).keyValid (6 : KeyField) = true := by
  decide

theorem witness_KclrUnloadsTheKeySet :
    (withKeys (ready refParams)).fault = false ∧ (withKeys (ready refParams)).keyValid 6 = true ∧
      ∀ n < 7, (fresh refParams).keyValid n = false := by decide

theorem witness_RoundIsOneRound :
    ReadyUnit (ready refParams) ∧ UnreadyUnit (fresh refParams) ∧
      (∃ t u t', exec (.xor 4 1 2) (ready refParams) = .next t ∧ exec (.sp 3 4) t = .next u ∧
        exec (.round 3 1 2) (ready refParams) = .next t') ∧
      ∃ t u w t', exec (.xor 4 1 2) (ready refParams) = .next t ∧ exec (.sub 4 4) t = .next u ∧
        exec (.perm 3 4) u = .next w ∧ exec (.round 3 1 2) (ready refParams) = .next t' :=
  ⟨readyUnit_ref, unreadyUnit_ref, ⟨_, _, _, rfl, rfl, rfl⟩, _, _, _, _, rfl, rfl, rfl, rfl⟩

/-- A ready unit with all keys loaded. -/
theorem readyUnit_keys : ReadyUnit (withKeys (ready refParams)) := ⟨rfl, rfl, readyUnit_ref.2.2.1, ref_valid⟩

theorem witness_RndkUsesALoadedKey :
    ReadyUnit (withKeys (ready refParams)) ∧ (6 : KeyField).val < 7 ∧
      (withKeys (ready refParams)).keyValid (6 : KeyField) = true ∧ ReadyUnit (ready refParams) ∧
      (ready refParams).keyValid (6 : KeyField) = false ∧ UnreadyUnit (fresh refParams) :=
  ⟨readyUnit_keys, by decide, by decide, readyUnit_ref, by decide, unreadyUnit_ref⟩

/-- A ready unit whose loaded keys are all zero. -/
def zeroKeys : State := { withKeys (ready refParams) with k := #v[0, 0, 0, 0, 0, 0, 0] }

theorem witness_EncEncryptsWithTheKeySet :
    ReadyUnit (withKeys (ready refParams)) ∧ (∀ n < 7, (withKeys (ready refParams)).keyValid n = true) ∧
      (ReadyUnit zeroKeys ∧ (∀ n < 7, zeroKeys.keyValid n = true) ∧ ∀ n < 7, zeroKeys.readKey n = 0) ∧
      ReadyUnit (ready refParams) ∧ (ready refParams).keyValid 6 = false ∧ UnreadyUnit (fresh refParams) :=
  ⟨readyUnit_keys, by decide, ⟨⟨rfl, rfl, readyUnit_ref.2.2.1, ref_valid⟩, by decide, by decide⟩, readyUnit_ref,
    by decide, unreadyUnit_ref⟩

theorem witness_IspInvertsSp :
    ReadyUnit (ready refParams) ∧ UnreadyUnit (fresh refParams) ∧
      (∃ t u, exec (.sp 2 1) (ready refParams) = .next t ∧ exec (.isp 2 2) t = .next u) ∧
      ∃ t u, exec (.isp 2 1) (ready refParams) = .next t ∧ exec (.sp 2 2) t = .next u :=
  ⟨readyUnit_ref, unreadyUnit_ref, ⟨_, _, rfl, rfl⟩, _, _, rfl, rfl⟩

theorem witness_DecrUndoesRound :
    ReadyUnit (ready refParams) ∧ UnreadyUnit (fresh refParams) ∧ (ready refParams).readX 2 = 0 ∧
      (3 : DReg) ≠ 2 ∧ ∃ t u, exec (.round 3 1 2) (ready refParams) = .next t ∧ exec (.decr 4 3 2) t = .next u :=
  ⟨readyUnit_ref, unreadyUnit_ref, by decide, by decide, _, _, rfl, rfl⟩

theorem countP_not_add (f : Block → Bool) (l : List Block) :
    l.countP f + l.countP (fun t => !f t) = l.length := by
  induction l with
  | nil => rfl
  | cons a l ih => cases h : f a <;> simp [h] <;> omega

/-- What holds of `t` or of `t ^^^ 1`, never of both, holds of half of all blocks. -/
theorem countP_half (f : Block → Bool) (flip : ∀ t, f (t ^^^ 1) = !f t) : 2 * blocks.countP f = 65536 := by
  have hcount : blocks.countP f = blocks.countP (fun t => !f t) := by
    rw [countP_blocks, countP_blocks]
    refine Finset.card_bij' (fun t _ => t ^^^ 1) (fun t _ => t ^^^ 1) ?_ ?_ ?_ ?_ <;> intro t ht
    · rw [Finset.mem_filter, flip, (Finset.mem_filter.1 ht).2]; simp
    · have h := (Finset.mem_filter.1 ht).2
      rw [Finset.mem_filter, flip]; exact ⟨Finset.mem_univ _, h⟩
    · rw [BitVec.xor_assoc, BitVec.xor_self, BitVec.xor_zero]
    · rw [BitVec.xor_assoc, BitVec.xor_self, BitVec.xor_zero]
  have hall := countP_not_add f blocks
  rw [length_blocks, ← hcount] at hall
  omega

theorem par_one_flip (t : Block) : par (1 &&& (t ^^^ 1)) = !par (1 &&& t) := by
  have h1 : ((1 : Block) &&& (t ^^^ 1)) = (1 &&& t) ^^^ 1 := by
    apply BitVec.eq_of_getLsbD_eq
    intro i hi
    simp only [BitVec.getLsbD_and, BitVec.getLsbD_xor]
    cases (1 : Block).getLsbD i <;> cases t.getLsbD i <;> rfl
  rw [par, par, h1, parUpTo_xor, show parUpTo (1 : Block) 16 = true by decide, Bool.xor_true]

/-- 95_test_vectors.md 4.4: under IDC `LC(0, 1) = 0`, since bit 0 is set in half of all inputs. -/
theorem lc_idc_zero_one : lc (spf idcParams) par 0 1 = 0 := by
  have hf : disagrees (spf idcParams) par 0 1 = fun t => par (1 &&& t) := by
    funext t
    have h0 : (0 : Block) &&& t = 0 := BitVec.zero_and
    rw [disagrees, test_spf_idc, h0, show par (0 : Block) = false by decide, Bool.false_xor]
  have h := countP_half (fun t => par (1 &&& t)) par_one_flip
  rw [lc, hf]
  omega

/-- Under IDC, `x0 = 0` and `x2 = 1`: an entry that is 0, and the entry of two zero masks. -/
theorem witness_LentGivesOneLinearEntry :
    ReadyUnit ((ready idcParams).writeX 2 1) ∧ UnreadyUnit (fresh refParams) ∧
      (∃ t, exec (.lent 0 2 .prob) ((ready idcParams).writeX 2 1) = .next t) ∧
      lc (spf ((ready idcParams).writeX 2 1).params) par (((ready idcParams).writeX 2 1).readX 0)
        (((ready idcParams).writeX 2 1).readX 2) = 0 ∧
      ((ready idcParams).writeX 2 1).readX 0 = 0 := by
  have h2 : ((ready idcParams).writeX 2 1).readX 2 = 1 := by decide
  have h0 : ((ready idcParams).writeX 2 1).readX 0 = 0 := by decide
  have hp : ((ready idcParams).writeX 2 1).params = idcParams := rfl
  refine ⟨⟨rfl, rfl, tablesFrozen_ready idc_valid, idc_valid⟩, unreadyUnit_ref, ⟨_, rfl⟩, ?_, h0⟩
  rw [h0, h2, hp, lc_idc_zero_one]

theorem witness_DentGivesOneDifferentialEntry :
    ReadyUnit idcState ∧ UnreadyUnit (fresh refParams) ∧ (∃ t, exec (.dent 0 1 .prob) idcState = .next t) ∧
      dc (spf idcState.params) (idcState.readX 0) (idcState.readX 1) = 0 ∧ idcState.readX 0 = 0 := by
  have h0 : idcState.readX 0 = 0 := by decide
  have hp : idcState.params = idcParams := rfl
  refine ⟨readyUnit_idc, unreadyUnit_ref, ⟨_, rfl⟩, ?_, h0⟩
  rw [h0, idcState_x1, hp, dc_idc, if_neg (by decide)]

theorem witness_LrowStreamsOneLinearRow :
    ReadyUnit (ready refParams) ∧ UnreadyUnit (fresh refParams) ∧ (ready refParams).readX 1 = 0 :=
  ⟨readyUnit_ref, unreadyUnit_ref, by decide⟩

theorem witness_DrowStreamsOneDifferentialRow :
    ReadyUnit (ready refParams) ∧ UnreadyUnit (fresh refParams) ∧ (ready refParams).readX 1 = 0 :=
  ⟨readyUnit_ref, unreadyUnit_ref, by decide⟩

theorem witness_LtabStreamsTheLinearTable : ReadyUnit (ready refParams) ∧ UnreadyUnit (fresh refParams) :=
  ⟨readyUnit_ref, unreadyUnit_ref⟩

theorem witness_DtabStreamsTheDifferentialTable : ReadyUnit (ready refParams) ∧ UnreadyUnit (fresh refParams) :=
  ⟨readyUnit_ref, unreadyUnit_ref⟩

theorem witness_PermutationMovesEachBit : ConfigValid refParams ∧ ConfigValid idcParams := ⟨ref_valid, idc_valid⟩
theorem witness_CombinedTransformIsABijection : ConfigValid refParams ∧ 3 < 4 := ⟨ref_valid, by decide⟩
theorem witness_EncryptionIsSixRoundsAndWhitening : ConfigValid refParams ∧ ∀ n, (fun _ => 0 : Nat → Block) n = 0 :=
  ⟨ref_valid, fun _ => rfl⟩
theorem witness_FullDecryptionRecoversTheBlock : ConfigValid refParams := ref_valid
theorem witness_CorrelationSumFacts : ConfigValid refParams ∧ (0xFFFF : Block) ≠ 0 := ⟨ref_valid, by decide⟩
theorem witness_DifferenceCountFacts : ConfigValid refParams ∧ (0xFFFF : Block) ≠ 0 := ⟨ref_valid, by decide⟩

theorem witness_NoRowIsEmpty : ConfigValid refParams := ref_valid
theorem witness_TableEntriesFactorByNibble : ConfigValid refParams := ref_valid

/-- Both ends of the range, the largest finite pattern, and a tie. -/
theorem witness_FloatingValueIsNearestEven :
    (0 ≤ 2 ^ 0 ∧ 0 ≤ 32) ∧ (2 ^ 32 ≤ 2 ^ 32 ∧ 32 ≤ 32 ∧ 2 ^ 32 ≠ 0) ∧ FiniteF32 0x7F7FFFFF ∧
      (f32 (2 ^ 24 + 1) 32 = 0x3B800000 ∧ (2 ^ 24 + 1 : Nat) ≤ 2 ^ 32 ∧ FiniteF32 0x3B800001 ∧
        |f32Value 0x3B800000 - ((2 ^ 24 + 1 : Nat) : ℚ) / 2 ^ 32| =
          |f32Value 0x3B800001 - ((2 ^ 24 + 1 : Nat) : ℚ) / 2 ^ 32|) := by
  refine ⟨by decide, by decide, by unfold FiniteF32; decide, by decide, by decide, by unfold FiniteF32; decide, ?_⟩
  have h0 : f32Value 0x3B800000 = 2 ^ 23 * (2 : ℚ) ^ (-31 : ℤ) := by
    simp [f32Value]
  have h1 : f32Value 0x3B800001 = (2 ^ 23 + 1) * (2 : ℚ) ^ (-31 : ℤ) := by
    simp [f32Value]
  rw [h0, h1]
  norm_num

end Sys2Proof.Machine
end

/-! SUPPORT. The decoder read backwards: a word that decodes is the encoding of its command (R49 to R57). -/

namespace Sys2Proof

section Decode

variable {w : Word} {i : Instr} {n : Nat}

theorem opField_of_toNat (h : (opField w).toNat = n) : opField w = BitVec.ofNat 8 n := by
  rw [← h, BitVec.ofNat_toNat, BitVec.setWidth_eq]

/-- The command is well formed and the word is its encoding. -/
def Encodes (w : Word) (i : Instr) : Prop := i.wf = true ∧ encode i = w

theorem Encodes.congr {v : Word} (h : Encodes v i) (hv : v = w) : Encodes w i := hv ▸ h

/-! Each operand format: if its commands encode as the format lays them out, a word it accepts encodes the command
read from it. -/

theorem encodes_of_decode0 {j : Instr} (hop : (opField w).toNat = n)
    (hj : Encodes (packR (BitVec.ofNat 8 n) 0 0 0 0) j)
    (h : decode0 w j = .ok i) : Encodes w i := by
  obtain ⟨_, hrd, h⟩ := bind_eq_ok h
  obtain ⟨_, hrs1, h⟩ := bind_eq_ok h
  obtain ⟨_, hrs2, h⟩ := bind_eq_ok h
  obtain ⟨_, hz, h⟩ := bind_eq_ok h
  obtain ⟨_, hf, h⟩ := bind_eq_ok h
  cases h
  have hw := packR_of_fields (unused_eq_ok hz)
  rw [opField_of_toNat hop, unused_eq_ok hrd, unused_eq_ok hrs1, unused_eq_ok hrs2, unused_eq_ok hf] at hw
  exact hj.congr hw

theorem encodes_of_decodeDS {c : DReg → DReg → Instr} (hop : (opField w).toNat = n)
    (hc : ∀ rd rs1, Encodes (packR (BitVec.ofNat 8 n) (fieldOf rd) (fieldOf rs1) 0 0) (c rd rs1))
    (h : decodeDS w c = .ok i) : Encodes w i := by
  obtain ⟨rd, hrd, h⟩ := bind_eq_ok h
  obtain ⟨rs1, hrs1, h⟩ := bind_eq_ok h
  obtain ⟨_, hrs2, h⟩ := bind_eq_ok h
  obtain ⟨_, hz, h⟩ := bind_eq_ok h
  obtain ⟨_, hf, h⟩ := bind_eq_ok h
  cases h
  have hw := packR_of_fields (unused_eq_ok hz)
  rw [opField_of_toNat hop, regOf_eq_ok hrd, regOf_eq_ok hrs1, unused_eq_ok hrs2, unused_eq_ok hf] at hw
  exact (hc rd rs1).congr hw

theorem encodes_of_decodeDSS {c : DReg → DReg → DReg → Instr} (hop : (opField w).toNat = n)
    (hc : ∀ rd rs1 rs2, Encodes (packR (BitVec.ofNat 8 n) (fieldOf rd) (fieldOf rs1) (fieldOf rs2) 0) (c rd rs1 rs2))
    (h : decodeDSS w c = .ok i) : Encodes w i := by
  obtain ⟨rd, hrd, h⟩ := bind_eq_ok h
  obtain ⟨rs1, hrs1, h⟩ := bind_eq_ok h
  obtain ⟨rs2, hrs2, h⟩ := bind_eq_ok h
  obtain ⟨_, hz, h⟩ := bind_eq_ok h
  obtain ⟨_, hf, h⟩ := bind_eq_ok h
  cases h
  have hw := packR_of_fields (unused_eq_ok hz)
  rw [opField_of_toNat hop, regOf_eq_ok hrd, regOf_eq_ok hrs1, regOf_eq_ok hrs2, unused_eq_ok hf] at hw
  exact (hc rd rs1 rs2).congr hw

theorem encodes_of_decodeDSK {c : DReg → DReg → KeyField → Instr} (hop : (opField w).toNat = n)
    (hc : ∀ rd rs1 k, KeyField.legal k = true →
      Encodes (packR (BitVec.ofNat 8 n) (fieldOf rd) (fieldOf rs1) (fieldOf k) 0) (c rd rs1 k))
    (h : decodeDSK w c = .ok i) : Encodes w i := by
  obtain ⟨rd, hrd, h⟩ := bind_eq_ok h
  obtain ⟨rs1, hrs1, h⟩ := bind_eq_ok h
  obtain ⟨k, hk, h⟩ := bind_eq_ok h
  obtain ⟨_, hz, h⟩ := bind_eq_ok h
  obtain ⟨_, hf, h⟩ := bind_eq_ok h
  cases h
  obtain ⟨hfield, hlegal⟩ := keyOf_eq_ok hk
  have hw := packR_of_fields (unused_eq_ok hz)
  rw [opField_of_toNat hop, regOf_eq_ok hrd, regOf_eq_ok hrs1, hfield, unused_eq_ok hf] at hw
  exact (hc rd rs1 k hlegal).congr hw

theorem encodes_of_decodeS {c : DReg → Instr} (hop : (opField w).toNat = n)
    (hc : ∀ rs1, Encodes (packR (BitVec.ofNat 8 n) 0 (fieldOf rs1) 0 0) (c rs1))
    (h : decodeS w c = .ok i) : Encodes w i := by
  obtain ⟨_, hrd, h⟩ := bind_eq_ok h
  obtain ⟨rs1, hrs1, h⟩ := bind_eq_ok h
  obtain ⟨_, hrs2, h⟩ := bind_eq_ok h
  obtain ⟨_, hz, h⟩ := bind_eq_ok h
  obtain ⟨_, hf, h⟩ := bind_eq_ok h
  cases h
  have hw := packR_of_fields (unused_eq_ok hz)
  rw [opField_of_toNat hop, unused_eq_ok hrd, regOf_eq_ok hrs1, unused_eq_ok hrs2, unused_eq_ok hf] at hw
  exact (hc rs1).congr hw

theorem encodes_of_decodeSSF {c : DReg → DReg → Fmt → Instr} (hop : (opField w).toNat = n)
    (hc : ∀ rs1 rs2 f, Encodes (packR (BitVec.ofNat 8 n) 0 (fieldOf rs1) (fieldOf rs2) f.bit) (c rs1 rs2 f))
    (h : decodeSSF w c = .ok i) : Encodes w i := by
  obtain ⟨_, hrd, h⟩ := bind_eq_ok h
  obtain ⟨rs1, hrs1, h⟩ := bind_eq_ok h
  obtain ⟨rs2, hrs2, h⟩ := bind_eq_ok h
  obtain ⟨_, hz, h⟩ := bind_eq_ok h
  cases h
  have hw := packR_of_fields (unused_eq_ok hz)
  rw [opField_of_toNat hop, unused_eq_ok hrd, regOf_eq_ok hrs1, regOf_eq_ok hrs2, ← bit_fmtOf (fField w)] at hw
  exact (hc rs1 rs2 _).congr hw

theorem encodes_of_decodeSF {c : DReg → Fmt → Instr} (hop : (opField w).toNat = n)
    (hc : ∀ rs1 f, Encodes (packR (BitVec.ofNat 8 n) 0 (fieldOf rs1) 0 f.bit) (c rs1 f))
    (h : decodeSF w c = .ok i) : Encodes w i := by
  obtain ⟨_, hrd, h⟩ := bind_eq_ok h
  obtain ⟨rs1, hrs1, h⟩ := bind_eq_ok h
  obtain ⟨_, hrs2, h⟩ := bind_eq_ok h
  obtain ⟨_, hz, h⟩ := bind_eq_ok h
  cases h
  have hw := packR_of_fields (unused_eq_ok hz)
  rw [opField_of_toNat hop, unused_eq_ok hrd, regOf_eq_ok hrs1, unused_eq_ok hrs2, ← bit_fmtOf (fField w)] at hw
  exact (hc rs1 _).congr hw

theorem encodes_of_decodeF {c : Fmt → Instr} (hop : (opField w).toNat = n)
    (hc : ∀ f, Encodes (packR (BitVec.ofNat 8 n) 0 0 0 f.bit) (c f))
    (h : decodeF w c = .ok i) : Encodes w i := by
  obtain ⟨_, hrd, h⟩ := bind_eq_ok h
  obtain ⟨_, hrs1, h⟩ := bind_eq_ok h
  obtain ⟨_, hrs2, h⟩ := bind_eq_ok h
  obtain ⟨_, hz, h⟩ := bind_eq_ok h
  cases h
  have hw := packR_of_fields (unused_eq_ok hz)
  rw [opField_of_toNat hop, unused_eq_ok hrd, unused_eq_ok hrs1, unused_eq_ok hrs2, ← bit_fmtOf (fField w)] at hw
  exact (hc _).congr hw

theorem encodes_of_decodeLdi (hop : (opField w).toNat = 0x02) (h : decodeLdi w = .ok i) : Encodes w i := by
  obtain ⟨rd, hrd, h⟩ := bind_eq_ok h
  obtain ⟨_, hz, h⟩ := bind_eq_ok h
  cases h
  have hw := packI_of_fields (unused_eq_ok hz)
  rw [opField_of_toNat hop, regOf_eq_ok hrd] at hw
  exact ⟨rfl, hw⟩

theorem encodes_of_decodeLdk (hop : (opField w).toNat = 0x20) (h : decodeLdk w = .ok i) : Encodes w i := by
  obtain ⟨k, hk, h⟩ := bind_eq_ok h
  obtain ⟨_, hz, h⟩ := bind_eq_ok h
  cases h
  obtain ⟨hfield, hlegal⟩ := keyOf_eq_ok hk
  have hw := packI_of_fields (unused_eq_ok hz)
  rw [opField_of_toNat hop, hfield] at hw
  exact ⟨hlegal, hw⟩

/-- A legal word is the encoding of the well-formed command it decodes to: by its `op`, then by its format. -/
theorem encodes_of_decode (h : decode w = .ok i) : Encodes w i := by
  unfold decode at h
  split at h
  next hop => exact encodes_of_decode0 hop ⟨rfl, rfl⟩ h
  next hop => exact encodes_of_decodeLdi hop h
  next hop => exact encodes_of_decodeDSS hop (fun _ _ _ => ⟨rfl, rfl⟩) h
  next hop => exact encodes_of_decodeS hop (fun _ => ⟨rfl, rfl⟩) h
  next hop => exact encodes_of_decode0 hop ⟨rfl, rfl⟩ h
  next hop => exact encodes_of_decodeDS hop (fun _ _ => ⟨rfl, rfl⟩) h
  next hop => exact encodes_of_decodeDS hop (fun _ _ => ⟨rfl, rfl⟩) h
  next hop => exact encodes_of_decodeDS hop (fun _ _ => ⟨rfl, rfl⟩) h
  next hop => exact encodes_of_decodeDS hop (fun _ _ => ⟨rfl, rfl⟩) h
  next hop => exact encodes_of_decodeDS hop (fun _ _ => ⟨rfl, rfl⟩) h
  next hop => exact encodes_of_decodeDSS hop (fun _ _ _ => ⟨rfl, rfl⟩) h
  next hop => exact encodes_of_decodeLdk hop h
  next hop => exact encodes_of_decode0 hop ⟨rfl, rfl⟩ h
  next hop => exact encodes_of_decodeDSS hop (fun _ _ _ => ⟨rfl, rfl⟩) h
  next hop => exact encodes_of_decodeDSK hop (c := .rndk) (fun _ _ _ hk => ⟨hk, rfl⟩) h
  next hop => exact encodes_of_decodeDS hop (fun _ _ => ⟨rfl, rfl⟩) h
  next hop => exact encodes_of_decodeDS hop (fun _ _ => ⟨rfl, rfl⟩) h
  next hop => exact encodes_of_decodeDSS hop (fun _ _ _ => ⟨rfl, rfl⟩) h
  next hop => exact encodes_of_decodeSSF hop (fun _ _ _ => ⟨rfl, rfl⟩) h
  next hop => exact encodes_of_decodeSSF hop (fun _ _ _ => ⟨rfl, rfl⟩) h
  next hop => exact encodes_of_decodeSF hop (fun _ _ => ⟨rfl, rfl⟩) h
  next hop => exact encodes_of_decodeSF hop (fun _ _ => ⟨rfl, rfl⟩) h
  next hop => exact encodes_of_decodeF hop (fun _ => ⟨rfl, rfl⟩) h
  next hop => exact encodes_of_decodeF hop (fun _ => ⟨rfl, rfl⟩) h
  next => cases h

end Decode

end Sys2Proof

/-! SUPPORT. What a command, a word and a host's action keep, each said once from the lemma that lists what it can
do. -/

namespace Sys2Proof.Machine

/-! ## Reset (R30, R146) -/

@[simp] theorem State.readX_reset (r : DReg) : State.reset.readX r = 0 := by
  revert r; decide

@[simp] theorem State.keyValid_reset {n : Nat} (hn : n < 7) : State.reset.keyValid n = false := by
  interval_cases n <;> rfl

@[simp] theorem State.status_reset : State.reset.status = 0 := by decide

/-- The registers after the host's reset are those of the reset state. -/
@[simp] theorem State.readX_hostReset (s : State) (r : DReg) : s.hostReset.readX r = 0 := State.readX_reset r

/-- `KVALID` after the host's reset is that of the reset state. -/
@[simp] theorem State.keyValid_hostReset (s : State) {n : Nat} (hn : n < 7) : s.hostReset.keyValid n = false :=
  State.keyValid_reset hn

@[simp] theorem State.taken_hostReset (s : State) : s.hostReset.taken = s.taken := rfl

/-- The step after the host has asserted reset (R144 (1)). -/
theorem step_present_reset (s : State) : step (s.present .reset) = .next s.hostReset := rfl

/-! ## A command's own update -/

@[simp] theorem done_fault (i : Instr) (s : State) : (done i s).fault = s.fault := by
  cases i with
  | init => simp only [done]; split <;> rfl
  | _ => rfl

@[simp] theorem done_params (i : Instr) (s : State) : (done i s).params = s.params := by
  cases i with
  | init => simp only [done]; split <;> rfl
  | _ => rfl

/-! ## A command -/

theorem exec_faulted {s : State} (hf : s.fault = true) (i : Instr) : exec i s = .next s := by
  rcases exec_cases i s with ⟨_, he⟩ | ⟨hf', _⟩ | ⟨hf', _⟩
  · exact he
  · simp [hf] at hf'
  · simp [hf] at hf'

theorem exec_stopped {i : Instr} {s : State} {c : Cause} (hf : s.fault = false) (hc : Stops i s c) :
    exec i s = .next (s.raise c (encode i)) := by
  rcases exec_cases i s with ⟨hf', _⟩ | ⟨_, d, hd, he⟩ | ⟨_, _, _, hno, _⟩
  · simp [hf] at hf'
  · rw [he, hc.unique hd]
  · exact absurd hc (hno c)

theorem exec_params {i : Instr} {s t : State} (h : exec i s = .next t) : t.params = s.params := by
  rcases exec_cases i s with ⟨_, he⟩ | ⟨_, c, _, he⟩ | ⟨_, _, _, _, he⟩
  all_goals
    rw [he] at h
    cases h
    simp

/-! ## A presented word -/

theorem FaultEntered.raise (s : State) (c : Cause) (w : Word) : FaultEntered c w s (s.raise c w) :=
  ⟨rfl, rfl, rfl, rfl⟩

/-- Everything a presented word can make of an unfaulted unit: fault entry with that word, or the one update of the
command it is. (A faulted unit discards it: `runWord_faulted`.) -/
theorem runWord_unfaulted {s : State} (hf : s.fault = false) (w : Word) :
    (∃ c, runWord w s = .next (s.raise c w)) ∨
    (∃ i, decode w = .ok i ∧ (∀ c, ¬ Stops i s c) ∧ runWord w s = .next (done i s)) := by
  rcases runWord_cases w s with ⟨i, hi, hrun⟩ | ⟨_, _, hrun⟩
  · rcases exec_cases i s with ⟨hf', _⟩ | ⟨_, c, _, he⟩ | ⟨_, _, _, hno, he⟩
    · simp [hf] at hf'
    · exact .inl ⟨c, by rw [hrun, he, (encodes_of_decode hi).2]⟩
    · exact .inr ⟨i, hi, hno, hrun.trans he⟩
  · exact .inl ⟨.illegalCmd, by simp [hrun, State.runIllegal, hf]⟩

theorem runWord_params {w : Word} {s t : State} (h : runWord w s = .next t) : t.params = s.params := by
  rcases runWord_cases w s with ⟨_, _, hrun⟩ | ⟨_, _, hrun⟩
  · exact exec_params (hrun.symm.trans h)
  · rw [hrun] at h
    cases h
    rcases s.runIllegal_cases w with ⟨_, ht⟩ | ⟨_, ht⟩ <;> simp [ht]

/-! ## An action of the host -/

/-- The host's actions: reset, a command word, or one that changes `OUTQ` and what the host has seen alone. -/
theorem runAction_cases (a : HostAction) (s : State) :
    (a = .reset ∧ runAction a s = .next s.hostReset) ∨
    (∃ w, a = .command w ∧ runAction a s = runWord w s) ∨
    (∃ q e, runAction a s = .next { s with outq := q, seen := e }) := by
  cases a with
  | reset => exact .inl ⟨rfl, rfl⟩
  | command w => exact .inr (.inl ⟨w, rfl, rfl⟩)
  | readStatus => exact .inr (.inr ⟨_, _, rfl⟩)
  | readErrcmd => exact .inr (.inr ⟨_, _, rfl⟩)
  | popOut =>
    rcases s.hostPop_cases with ⟨_, h⟩ | ⟨_, _, _, h⟩
    · exact .inr (.inr ⟨_, _, congrArg _ h⟩)
    · exact .inr (.inr ⟨_, _, congrArg _ h⟩)

theorem runAction_params {a : HostAction} {s t : State} (h : runAction a s = .next t) : t.params = s.params := by
  rcases runAction_cases a s with ⟨_, hrun⟩ | ⟨_, _, hrun⟩ | ⟨_, _, hrun⟩
  · rw [hrun] at h; cases h; rfl
  · exact runWord_params (hrun.symm.trans h)
  · rw [hrun] at h; cases h; rfl

theorem step_params {s t : State} (h : step s = .next t) : t.params = s.params := by
  rcases step_cases s with ⟨_, hs⟩ | ⟨a, rest, _, hs⟩
  · rw [hs] at h; cases h; rfl
  · exact runAction_params (s := { s with input := rest }) (hs.symm.trans h)

/-! ## A step and the fault (R23) -/

/-- A step of a faulted unit that is no reset keeps the fault and its record. -/
theorem step_keeps_fault {s t : State} (hf : s.fault = true) (hreset : s.input.head? ≠ some .reset)
    (h : step s = .next t) : t.fault = true ∧ t.errcode = s.errcode ∧ t.errcmd = s.errcmd := by
  rcases step_cases s with ⟨_, hs⟩ | ⟨a, rest, hin, hs⟩
  · rw [hs] at h; cases h; exact ⟨hf, rfl, rfl⟩
  · rw [hs] at h
    rcases runAction_cases a { s with input := rest } with ⟨ha, _⟩ | ⟨w, _, hrun⟩ | ⟨_, _, hrun⟩
    · exact absurd (by simp [hin, ha]) hreset
    · rw [hrun, runWord_faulted (s := { s with input := rest }) hf] at h; cases h; exact ⟨hf, rfl, rfl⟩
    · rw [hrun] at h; cases h; exact ⟨hf, rfl, rfl⟩

/-- A step that sets `FAULT` is fault entry of the word presented (R137). -/
theorem step_sets_fault {s t : State} (hf : s.fault = false) (h : step s = .next t) (ht : t.fault = true) :
    ∃ w rest c, s.input = .command w :: rest ∧ FaultEntered c w { s with input := rest } t := by
  rcases step_cases s with ⟨_, hs⟩ | ⟨a, rest, hin, hs⟩
  · rw [hs] at h; cases h; simp [hf] at ht
  · rw [hs] at h
    rcases runAction_cases a { s with input := rest } with ⟨_, hrun⟩ | ⟨w, rfl, hrun⟩ | ⟨_, _, hrun⟩
    · rw [hrun] at h; cases h; simp at ht
    · rcases runWord_unfaulted (s := { s with input := rest }) hf w with ⟨c, hw⟩ | ⟨i, _, _, hw⟩
      · rw [hrun, hw] at h; cases h; exact ⟨w, rest, c, hin, .raise _ c w⟩
      · rw [hrun, hw] at h; cases h; simp [hf] at ht
    · rw [hrun] at h; cases h; simp [hf] at ht

/-! ## The same command under other parameters (R27) -/

/-- The six commands that read the cipher parameters directly (R27). -/
def ReadsParams (i : Instr) : Prop :=
  i = .init ∨ (∃ a b, i = .sub a b ∨ i = .isub a b ∨ i = .perm a b ∨ i = .isp a b) ∨ ∃ a b c, i = .decr a b c

theorem done_withParams {i : Instr} (hi : ¬ ReadsParams i) (s : State) (p : Params) :
    done i { s with params := p } = { done i s with params := p } := by
  cases i with
  | init => exact absurd (.inl rfl) hi
  | sub a b => exact absurd (.inr (.inl ⟨a, b, .inl rfl⟩)) hi
  | isub a b => exact absurd (.inr (.inl ⟨a, b, .inr (.inl rfl)⟩)) hi
  | perm a b => exact absurd (.inr (.inl ⟨a, b, .inr (.inr (.inl rfl))⟩)) hi
  | isp a b => exact absurd (.inr (.inl ⟨a, b, .inr (.inr (.inr rfl))⟩)) hi
  | decr a b c => exact absurd (.inr (.inr ⟨a, b, c, rfl⟩)) hi
  | _ => rfl

/-- No cause but `CfgInvalid`, which is `INIT`'s, looks at the parameters. -/
theorem Stops.withParams {i : Instr} {s : State} {c : Cause} (hi : i ≠ .init) (h : Stops i s c) (p : Params) :
    Stops i { s with params := p } c := by
  cases h with
  | illegalCmd hw => exact .illegalCmd hw
  | notReady hw hn hr => exact .notReady hw hn hr
  | cfgInvalid h => exact absurd h hi
  | roundKey rd rs1 k h hw hr hk => exact .roundKey rd rs1 k h hw hr hk
  | keySet rd rs1 h hr hk => exact .keySet rd rs1 h hr hk
  | keyLocked k imm h hw hk => exact .keyLocked k imm h hw hk

theorem exec_withParams {i : Instr} {s t : State} (hi : ¬ ReadsParams i) (h : exec i s = .next t) (p : Params) :
    exec i { s with params := p } = .next { t with params := p } := by
  have hinit : i ≠ .init := fun h => hi (.inl h)
  rcases exec_cases i s with ⟨hf, he⟩ | ⟨hf, c, hc, he⟩ | ⟨hf, _, _, hno, he⟩ <;> rw [he] at h <;> cases h
  · exact exec_faulted (s := { s with params := p }) hf i
  · exact exec_stopped (s := { s with params := p }) hf (hc.withParams hinit p)
  · -- a cause that stopped it under `p` would stop it in `s`, which is that state with its own parameters back
    have hno' : ∀ c, ¬ Stops i { s with params := p } c := fun c hc => hno c (hc.withParams hinit s.params)
    exact (exec_done (s := { s with params := p }) hf hno').trans (congrArg _ (done_withParams hi s p))

/-! ## The obligations of 10_state.md -/

/-- Settles O13: the steps of a faulted and of an unfaulted unit, by what the host's next action can do. -/
theorem faultIsStickyAndDiscardsCommands : Obligations.FaultIsStickyAndDiscardsCommands :=
  ⟨rfl, fun s => ⟨s.hostReset, step_present_reset s, s.hostReset_fault⟩,
    fun s w hf => (step_present s (.command w)).trans (runWord_faulted hf w),
    fun _ _ => step_keeps_fault, fun _ _ => step_sets_fault⟩

/-- Settles O17: every step keeps the parameters, and a command outside the six neither stops nor updates the state
by them. -/
theorem parametersAreReadOnly : Obligations.ParametersAreReadOnly := by
  refine ⟨fun _ _ => step_params, fun i s t p h => ?_⟩
  by_cases hi : ReadsParams i
  · rcases hi with hi | hi | hi
    · exact .inl hi
    · exact .inr (.inl hi)
    · exact .inr (.inr (.inl hi))
  · exact .inr (.inr (.inr (exec_withParams hi h p)))

/-- Settles O12: the fields of the reset state, and of what the host's reset makes of any state. -/
theorem resetLeavesTheStatedValues : Obligations.ResetLeavesTheStatedValues := by
  refine ⟨State.readX_reset, rfl, fun _ => State.keyValid_reset, rfl, rfl, rfl, rfl, rfl, State.status_reset,
    fun s => ⟨s.hostReset, step_present_reset s, ?_⟩⟩
  exact ⟨s.readX_hostReset, s.hostReset_acc, fun _ => s.keyValid_hostReset, s.hostReset_ready, s.hostReset_fault,
    s.hostReset_errcode, s.hostReset_errcmd, s.hostReset_outq, s.hostReset_params, s.taken_hostReset⟩

end Sys2Proof.Machine

/-! SUPPORT. The numbers that joined bytes stand for, and the byte formats of the host (R37 to R40). -/

namespace Sys2Proof

/-! ## The number of a placed field -/

theorem toNat_place {w n lo : Nat} (v : BitVec n) (h : lo + n ≤ w) : (place w v lo).toNat = 2 ^ lo * v.toNat := by
  have hv : 2 ^ lo * v.toNat < 2 ^ w := by
    calc 2 ^ lo * v.toNat < 2 ^ lo * 2 ^ n := Nat.mul_lt_mul_of_pos_left v.isLt (Nat.two_pow_pos lo)
      _ = 2 ^ (lo + n) := (Nat.pow_add 2 lo n).symm
      _ ≤ 2 ^ w := Nat.pow_le_pow_right Nat.two_pos h
  rw [place, BitVec.toNat_shiftLeft, BitVec.toNat_setWidth_of_le (by omega), Nat.shiftLeft_eq, Nat.mul_comm,
    Nat.mod_eq_of_lt hv]

theorem toNat_place_zero {w n : Nat} (v : BitVec n) (h : n ≤ w) : (place w v 0).toNat = v.toNat := by
  rw [toNat_place v (by omega), Nat.pow_zero, Nat.one_mul]

/-- Joining a field to a value that ends below it adds their numbers: no bit is shared. -/
theorem toNat_place_or {w n lo : Nat} (v : BitVec n) {u : BitVec w} (h : lo + n ≤ w) (hu : u.toNat < 2 ^ lo) :
    (place w v lo ||| u).toNat = 2 ^ lo * v.toNat + u.toNat := by
  rw [BitVec.toNat_or, toNat_place v h, Nat.two_pow_add_eq_or_of_lt hu]

end Sys2Proof

namespace Sys2Proof.Machine

/-! ## Blocks (R37) -/

theorem toNat_blockOfBytes (lo hi : Byte) : (blockOfBytes lo hi).toNat = lo.toNat + 256 * hi.toNat := by
  have hlo : (place 16 lo 0).toNat = lo.toNat := toNat_place_zero lo (by decide)
  rw [blockOfBytes, toNat_place_or hi (by decide) (by omega), hlo]
  omega

theorem blockOfBytes_extract (v : Block) : blockOfBytes (v.extractLsb' 0 8) (v.extractLsb' 8 8) = v := by
  apply BitVec.eq_of_toNat_eq
  rw [toNat_blockOfBytes, BitVec.extractLsb'_toNat, BitVec.extractLsb'_toNat]
  simp only [Nat.shiftRight_eq_div_pow]
  omega

/-! ## Words (R40) -/

theorem toNat_wordOfBytes (b0 b1 b2 b3 : Byte) :
    (wordOfBytes b0 b1 b2 b3).toNat =
      b0.toNat + 256 * b1.toNat + 65536 * b2.toNat + 16777216 * b3.toNat := by
  have h0 : (place 32 b0 0).toNat = b0.toNat := toNat_place_zero b0 (by decide)
  have h1 : (place 32 b1 8 ||| place 32 b0 0).toNat = 2 ^ 8 * b1.toNat + b0.toNat := by
    rw [toNat_place_or b1 (by decide) (by omega), h0]
  have h2 : (place 32 b2 16 ||| (place 32 b1 8 ||| place 32 b0 0)).toNat =
      2 ^ 16 * b2.toNat + (2 ^ 8 * b1.toNat + b0.toNat) := by
    rw [toNat_place_or b2 (by decide) (by omega), h1]
  rw [wordOfBytes, BitVec.or_assoc, BitVec.or_assoc, toNat_place_or b3 (by decide) (by omega), h2]
  omega

theorem wordOfBytes_extract (w : Word) :
    wordOfBytes (w.extractLsb' 0 8) (w.extractLsb' 8 8) (w.extractLsb' 16 8) (w.extractLsb' 24 8) = w := by
  apply BitVec.eq_of_toNat_eq
  simp only [toNat_wordOfBytes, BitVec.extractLsb'_toNat, Nat.shiftRight_eq_div_pow]
  omega

/-! ## Streams (R39) -/

theorem streamBlock_eq_some {stream : List Byte} {j : Nat} {lo hi : Byte} (hlo : stream[2 * j]? = some lo)
    (hhi : stream[2 * j + 1]? = some hi) : streamBlock stream j = some (blockOfBytes lo hi) := by
  simp [streamBlock, hlo, hhi]

/-! ## The obligation of 20_memory.md -/

/-- Settles O7: each format joins bytes as `blockOfBytes` or `wordOfBytes` does, whose numbers are the little-endian
sums. -/
theorem hostBytesAreLittleEndian : Obligations.HostBytesAreLittleEndian := by
  refine ⟨fun v => ⟨_, _, rfl, ?_, blockOfBytes_extract v⟩, fun m i => toNat_blockOfBytes _ _, by decide,
    fun _ _ lo hi hlo hhi => ⟨_, streamBlock_eq_some hlo hhi, toNat_blockOfBytes lo hi⟩, by decide, by decide,
    fun w => ⟨_, _, _, _, rfl, ?_, wordOfBytes_extract w⟩⟩
  · rw [← toNat_blockOfBytes, blockOfBytes_extract]
  · rw [← toNat_wordOfBytes, wordOfBytes_extract]

end Sys2Proof.Machine

/-! SUPPORT. The decoder read forwards: each operand format answers its command exactly when the word fits the layout
of R58, and each row of R56 selects exactly the words that fit it (R49 to R58). -/

namespace Sys2Proof.Machine

/-! ## A reader that answers under a condition -/

/-- The reader `x` answers `a` when `P` holds, and rejects when it does not. -/
def AnswersIf {α : Type} (P : Prop) (a : α) (x : Except DecodeError α) : Prop :=
  (P ∧ x = .ok a) ∨ (¬ P ∧ ∃ e, x = .error e)

section Answers

variable {α β : Type} {P Q : Prop} {a : α} {b : β} {x : Except DecodeError α} {g : α → Except DecodeError β}

/-- Readers in sequence answer when each condition holds. -/
theorem AnswersIf.bind (hx : AnswersIf P a x) (hg : AnswersIf Q b (g a)) : AnswersIf (P ∧ Q) b (x >>= g) := by
  rcases hx with ⟨hp, rfl⟩ | ⟨hp, e, rfl⟩
  · rcases hg with ⟨hq, hok⟩ | ⟨hq, herr⟩
    · exact .inl ⟨⟨hp, hq⟩, hok⟩
    · exact .inr ⟨fun h => hq h.2, herr⟩
  · exact .inr ⟨fun h => hp h.1, e, rfl⟩

/-- The last reader of a format, whose answer makes the command. -/
theorem AnswersIf.last (hx : AnswersIf P a x) (c : α → β) : AnswersIf P (c a) (x >>= fun r => pure (c r)) := by
  rcases hx with ⟨hp, rfl⟩ | ⟨hp, e, rfl⟩
  · exact .inl ⟨hp, rfl⟩
  · exact .inr ⟨hp, e, rfl⟩

theorem AnswersIf.congr (hx : AnswersIf P a x) (h : Q ↔ P) : AnswersIf Q a x := propext h ▸ hx

theorem AnswersIf.ok (hx : AnswersIf P a x) (hp : P) : x = .ok a := by
  rcases hx with ⟨_, hok⟩ | ⟨hn, _⟩
  · exact hok
  · exact absurd hp hn

theorem AnswersIf.rejects_iff (hx : AnswersIf P a x) : (∃ e, x = .error e) ↔ ¬ P := by
  rcases hx with ⟨hp, rfl⟩ | ⟨hn, herr⟩
  · exact ⟨fun ⟨_, h⟩ => (nomatch h), fun hn => absurd hp hn⟩
  · exact ⟨fun _ => hn, fun _ => herr⟩

end Answers

/-! ## The field readers -/

theorem toFin_setWidth_of_lt {v : BitVec 4} (h : v.toNat < 8) : (v.setWidth 3).toFin = ⟨v.toNat, h⟩ := by
  apply Fin.ext
  simp only [BitVec.val_toFin, BitVec.toNat_setWidth]
  omega

/-- The three bits of R56 are the low bits of the 4-bit field at the same place. -/
theorem threeBits_eq (w : Word) (lo : Nat) : threeBits w lo = ((w.extractLsb' lo 4).setWidth 3).toFin := by
  apply Fin.ext
  simp only [threeBits, BitVec.val_toFin, BitVec.toNat_setWidth, BitVec.extractLsb'_toNat]
  omega

theorem regOf_answers (w : Word) (lo : Nat) :
    AnswersIf (FieldUse.register.allows (w.extractLsb' lo 4)) (threeBits w lo) (regOf (w.extractLsb' lo 4)) := by
  rw [threeBits_eq]
  by_cases h : (w.extractLsb' lo 4).toNat < 8
  · exact .inl ⟨Nat.le_of_lt_succ h, by rw [regOf, dif_pos h, toFin_setWidth_of_lt h]⟩
  · exact .inr ⟨fun hle => h (Nat.lt_succ_of_le hle), _, dif_neg h⟩

theorem keyOf_answers (w : Word) (lo : Nat) :
    AnswersIf (FieldUse.keyIndex.allows (w.extractLsb' lo 4)) (threeBits w lo) (keyOf (w.extractLsb' lo 4)) := by
  rw [threeBits_eq]
  by_cases h : (w.extractLsb' lo 4).toNat < 7
  · exact .inl ⟨Nat.le_of_lt_succ h, by rw [keyOf, dif_pos h, toFin_setWidth_of_lt (by omega)]⟩
  · exact .inr ⟨fun hle => h (Nat.lt_succ_of_le hle), _, dif_neg h⟩

theorem unused_answers {n : Nat} (v : BitVec n) : AnswersIf (v = 0) () (unused v) := by
  by_cases h : v = 0
  · exact .inl ⟨h, if_pos h⟩
  · exact .inr ⟨h, _, if_neg h⟩

theorem unusedField_answers (v : BitVec 4) : AnswersIf (FieldUse.none.allows v) () (unused v) := unused_answers v

/-- The format bit as R56 reads it. -/
theorem fmtOf_fField (w : Word) : fmtOf (fField w) = if w.getLsbD 0 then .prob else .raw := by
  have h : fField w = BitVec.ofBool (w.getLsbD 0) := by
    apply BitVec.eq_of_getLsbD_eq
    intro i hi
    interval_cases i
    simp [fField]
  rw [h]
  cases w.getLsbD 0 <;> rfl

/-! ## The operand formats -/

/-- What R58 (b) to (d) ask of a word of this layout. -/
def Layout.Fits (l : Layout) (w : Word) : Prop :=
  l.rd.allows (rdField w) ∧ l.rs1.allows (rs1Field w) ∧
    (l.imm = false → l.rs2.allows (rs2Field w) ∧ zeroField w = 0 ∧ (l.f = false → fField w = 0))

section Formats

variable (w : Word)

/-- Format R without a format bit (R50). -/
theorem fits_formatR (rd rs1 rs2 : FieldUse) :
    Layout.Fits ⟨rd, rs1, rs2, false, false⟩ w ↔ rd.allows (rdField w) ∧ rs1.allows (rs1Field w) ∧
      rs2.allows (rs2Field w) ∧ zeroField w = 0 ∧ fField w = 0 := by
  simp [Layout.Fits]

/-- Format R with a format bit (R50, R54). -/
theorem fits_formatRF (rd rs1 rs2 : FieldUse) :
    Layout.Fits ⟨rd, rs1, rs2, false, true⟩ w ↔ rd.allows (rdField w) ∧ rs1.allows (rs1Field w) ∧
      rs2.allows (rs2Field w) ∧ zeroField w = 0 := by
  simp [Layout.Fits]

/-- Format I (R51). -/
theorem fits_formatI (rd rs1 rs2 : FieldUse) :
    Layout.Fits ⟨rd, rs1, rs2, true, false⟩ w ↔ rd.allows (rdField w) ∧ rs1.allows (rs1Field w) := by
  simp [Layout.Fits]

/-! Each format answers the command of its operand fields exactly when the word fits the format's layout. -/

theorem decode0_answers (i : Instr) : AnswersIf (Layout.Fits ⟨.none, .none, .none, false, false⟩ w) i (decode0 w i) :=
  ((unusedField_answers _).bind <| (unusedField_answers _).bind <| (unusedField_answers _).bind <|
    (unused_answers _).bind <| (unused_answers _).last _).congr (fits_formatR w ..)

theorem decodeDS_answers (c : DReg → DReg → Instr) :
    AnswersIf (Layout.Fits ⟨.register, .register, .none, false, false⟩ w)
      (c (threeBits w 20) (threeBits w 16)) (decodeDS w c) :=
  ((regOf_answers w 20).bind <| (regOf_answers w 16).bind <| (unusedField_answers _).bind <|
    (unused_answers _).bind <| (unused_answers _).last _).congr (fits_formatR w ..)

theorem decodeDSS_answers (c : DReg → DReg → DReg → Instr) :
    AnswersIf (Layout.Fits ⟨.register, .register, .register, false, false⟩ w)
      (c (threeBits w 20) (threeBits w 16) (threeBits w 12)) (decodeDSS w c) :=
  ((regOf_answers w 20).bind <| (regOf_answers w 16).bind <| (regOf_answers w 12).bind <| (unused_answers _).bind <|
    (unused_answers _).last _).congr (fits_formatR w ..)

theorem decodeDSK_answers (c : DReg → DReg → KeyField → Instr) :
    AnswersIf (Layout.Fits ⟨.register, .register, .keyIndex, false, false⟩ w)
      (c (threeBits w 20) (threeBits w 16) (threeBits w 12)) (decodeDSK w c) :=
  ((regOf_answers w 20).bind <| (regOf_answers w 16).bind <| (keyOf_answers w 12).bind <| (unused_answers _).bind <|
    (unused_answers _).last _).congr (fits_formatR w ..)

theorem decodeS_answers (c : DReg → Instr) :
    AnswersIf (Layout.Fits ⟨.none, .register, .none, false, false⟩ w) (c (threeBits w 16)) (decodeS w c) :=
  ((unusedField_answers _).bind <| (regOf_answers w 16).bind <| (unusedField_answers _).bind <|
    (unused_answers _).bind <| (unused_answers _).last _).congr (fits_formatR w ..)

theorem decodeSSF_answers (c : DReg → DReg → Fmt → Instr) :
    AnswersIf (Layout.Fits ⟨.none, .register, .register, false, true⟩ w)
      (c (threeBits w 16) (threeBits w 12) (fmtOf (fField w))) (decodeSSF w c) :=
  ((unusedField_answers _).bind <| (regOf_answers w 16).bind <| (regOf_answers w 12).bind <|
    (unused_answers _).last _).congr (fits_formatRF w ..)

theorem decodeSF_answers (c : DReg → Fmt → Instr) :
    AnswersIf (Layout.Fits ⟨.none, .register, .none, false, true⟩ w)
      (c (threeBits w 16) (fmtOf (fField w))) (decodeSF w c) :=
  ((unusedField_answers _).bind <| (regOf_answers w 16).bind <| (unusedField_answers _).bind <|
    (unused_answers _).last _).congr (fits_formatRF w ..)

theorem decodeF_answers (c : Fmt → Instr) :
    AnswersIf (Layout.Fits ⟨.none, .none, .none, false, true⟩ w) (c (fmtOf (fField w))) (decodeF w c) :=
  ((unusedField_answers _).bind <| (unusedField_answers _).bind <| (unusedField_answers _).bind <|
    (unused_answers _).last _).congr (fits_formatRF w ..)

theorem decodeLdi_answers :
    AnswersIf (Layout.Fits ⟨.register, .none, .none, true, false⟩ w)
      (.ldi (threeBits w 20) (immField w)) (decodeLdi w) :=
  ((regOf_answers w 20).bind <| (unused_answers _).last _).congr (fits_formatI w ..)

theorem decodeLdk_answers :
    AnswersIf (Layout.Fits ⟨.keyIndex, .none, .none, true, false⟩ w)
      (.ldk (threeBits w 20) (immField w)) (decodeLdk w) :=
  ((keyOf_answers w 20).bind <| (unused_answers _).last _).congr (fits_formatI w ..)

end Formats

/-! ## Masks -/

/-- The fields of a word, each bit in one of them. -/
def fieldsOf (w : Word) : BitVec 8 × BitVec 4 × BitVec 4 × BitVec 4 × BitVec 11 × BitVec 1 :=
  (opField w, rdField w, rs1Field w, rs2Field w, zeroField w, fField w)

theorem fieldsOf_injective {v w : Word} (h : fieldsOf v = fieldsOf w) : v = w := by
  simp only [fieldsOf, Prod.mk.injEq, opField, rdField, rs1Field, rs2Field, zeroField, fField, ← BitVec.toNat_inj,
    BitVec.extractLsb'_toNat, Nat.shiftRight_eq_div_pow] at h
  apply BitVec.eq_of_toNat_eq
  omega

/-- Bit 3 of a register or key field must be 0; so must every bit of an unused field. -/
def FieldUse.mask : FieldUse → BitVec 4
  | .register => 8
  | .keyIndex => 8
  | .none => 15

/-- What a mask cannot say of a field: the extra condition `k != 7`. -/
def FieldUse.extra : FieldUse → Fin 8 → Bool
  | .keyIndex, k => k != 7
  | .register, _ => true
  | .none, _ => true

theorem FieldUse.allows_iff (u : FieldUse) (w : Word) (lo : Nat) :
    u.allows (w.extractLsb' lo 4) ↔
      w.extractLsb' lo 4 &&& u.mask = 0 ∧ u.extra (threeBits w lo) = true := by
  rw [threeBits_eq]
  generalize w.extractLsb' lo 4 = v
  cases u with
  | register => simp only [allows, mask, extra]; revert v; decide
  | keyIndex => simp only [allows, mask, extra]; revert v; decide
  | none => simp only [allows, mask, extra]; revert v; decide

/-- The mask of a layout, by fields: all of `op`, and of the rest what must be 0. -/
def Layout.maskFields (l : Layout) : BitVec 8 × BitVec 4 × BitVec 4 × BitVec 4 × BitVec 11 × BitVec 1 :=
  (.allOnes 8, l.rd.mask, l.rs1.mask, if l.imm then 0 else l.rs2.mask, if l.imm then 0 else .allOnes 11,
    if l.imm || l.f then 0 else .allOnes 1)

/-- The extra condition of a layout. -/
def Layout.extra (l : Layout) (w : Word) : Bool :=
  l.rd.extra (threeBits w 20) && l.rs1.extra (threeBits w 16) && (l.imm || l.rs2.extra (threeBits w 12))

/-- The row masks, matches and restricts a word as this layout asks. -/
structure Layout.Describes (l : Layout) (r : OpcodeRow) : Prop where
  value : fieldsOf r.value = (opField r.value, 0, 0, 0, 0, 0)
  mask : fieldsOf r.mask = l.maskFields
  extra : ∀ w, r.extra w = l.extra w

theorem fieldsOf_and (v w : Word) :
    fieldsOf (v &&& w) = (opField v &&& opField w, rdField v &&& rdField w, rs1Field v &&& rs1Field w,
      rs2Field v &&& rs2Field w, zeroField v &&& zeroField w, fField v &&& fField w) := by
  simp [fieldsOf, opField, rdField, rs1Field, rs2Field, zeroField, fField, BitVec.extractLsb'_and]

/-- The bits under the mask agree with the row's value when the fields do, one by one. -/
theorem Layout.Describes.masked_iff {r : OpcodeRow} {l : Layout} (h : l.Describes r) (w : Word) :
    w &&& r.mask = r.value ↔
      opField w = opField r.value ∧ rdField w &&& l.rd.mask = 0 ∧ rs1Field w &&& l.rs1.mask = 0 ∧
        (l.imm = false → rs2Field w &&& l.rs2.mask = 0 ∧ zeroField w = 0 ∧ (l.f = false → fField w = 0)) := by
  have hmask := h.mask
  simp only [fieldsOf, Layout.maskFields, Prod.mk.injEq] at hmask
  obtain ⟨hop, hrd, hrs1, hrs2, hzero, hbit⟩ := hmask
  have hfields : w &&& r.mask = r.value ↔ fieldsOf (w &&& r.mask) = fieldsOf r.value :=
    ⟨congrArg _, fieldsOf_injective⟩
  rw [hfields, fieldsOf_and, h.value, hop, hrd, hrs1, hrs2, hzero, hbit]
  cases l.imm <;> cases l.f <;> simp [-BitVec.reduceAllOnes]

/-- A row that a layout describes selects the words of its `op` that fit it. -/
theorem Layout.Describes.selects_iff {r : OpcodeRow} {l : Layout} (h : l.Describes r) (w : Word) :
    r.selects w = true ↔ opField w = opField r.value ∧ l.Fits w := by
  have hrd := l.rd.allows_iff w 20
  have hrs1 := l.rs1.allows_iff w 16
  have hrs2 := l.rs2.allows_iff w 12
  rw [OpcodeRow.selects, Bool.and_eq_true, beq_iff_eq, h.masked_iff, h.extra, Layout.Fits, rdField, rs1Field,
    rs2Field, hrd, hrs1, hrs2, Layout.extra, Bool.and_eq_true, Bool.and_eq_true, Bool.or_eq_true]
  cases l.imm <;> grind

/-! ## The 24 rows -/

/-- The layout of the row's `op`, the row's mask and extra condition, and the decoder say the same of a word. -/
structure RowReads (r : OpcodeRow) (l : Layout) : Prop where
  layout : layoutOf (opField r.value).toNat = some l
  describes : l.Describes r
  decodes : ∀ w, opField w = opField r.value → AnswersIf (l.Fits w) (r.command w) (decode w)

/-- The 24 rows of R56, each by the format of its command. -/
theorem row_reads : ∀ r ∈ opcodeMap, ∃ l, RowReads r l := by
  simp only [opcodeMap, List.forall_mem_cons, ← fmtOf_fField]
  refine ⟨?_, ?_, ?_, ?_, ?_, ?_, ?_, ?_, ?_, ?_, ?_, ?_, ?_, ?_, ?_, ?_, ?_, ?_, ?_, ?_, ?_, ?_, ?_, ?_,
    fun _ h => nomatch h⟩
  all_goals
    refine ⟨_, rfl, ⟨by decide, by decide, fun w => by simp [Layout.extra, FieldUse.extra]⟩, fun w hop => ?_⟩
    rw [decode, hop]
  · exact decode0_answers w .init
  · exact decodeLdi_answers w
  · exact decodeDSS_answers w .xor
  · exact decodeS_answers w .out
  · exact decode0_answers w .outa
  · exact decodeDS_answers w .sub
  · exact decodeDS_answers w .isub
  · exact decodeDS_answers w .perm
  · exact decodeDS_answers w .sp
  · exact decodeDS_answers w .par
  · exact decodeDSS_answers w .dot
  · exact decodeLdk_answers w
  · exact decode0_answers w .kclr
  · exact decodeDSS_answers w .round
  · exact decodeDSK_answers w .rndk
  · exact decodeDS_answers w .enc
  · exact decodeDS_answers w .isp
  · exact decodeDSS_answers w .decr
  · exact decodeSSF_answers w .lent
  · exact decodeSSF_answers w .dent
  · exact decodeSF_answers w .lrow
  · exact decodeSF_answers w .drow
  · exact decodeF_answers w .ltab
  · exact decodeF_answers w .dtab

/-- Each assigned `op` has its row. -/
theorem exists_row_of_layoutOf {n : Nat} {l : Layout} (h : layoutOf n = some l) :
    ∃ r ∈ opcodeMap, (opField r.value).toNat = n := by
  rw [← List.mem_map (f := fun r : OpcodeRow => (opField r.value).toNat)]
  unfold layoutOf at h
  split at h
  case h_25 => cases h
  all_goals decide

theorem decode_of_layoutOf_eq_none {w : Word} (h : layoutOf (opField w).toNat = none) :
    decode w = .error .unassignedOp := by
  unfold decode
  split
  case h_25 => rfl
  all_goals (next hop => rw [hop] at h; cases h)

/-! ## A word and the map -/

/-- A word whose `op` is assigned has a row, and is that row's command exactly when it fits the row's layout. -/
theorem decode_of_layoutOf_eq_some {w : Word} {l : Layout} (h : layoutOf (opField w).toNat = some l) :
    ∃ r ∈ opcodeMap, l.Describes r ∧ opField w = opField r.value ∧ AnswersIf (l.Fits w) (r.command w) (decode w) := by
  obtain ⟨r, hr, hop⟩ := exists_row_of_layoutOf h
  obtain ⟨l', hl', hdesc, hdec⟩ := row_reads r hr
  have hll : l' = l := Option.some.inj (by rw [← hl', hop, h])
  have hop' : opField w = opField r.value := (BitVec.eq_of_toNat_eq hop).symm
  subst hll
  exact ⟨r, hr, hdesc, hop', hdec w hop'⟩

/-- A word that a row selects is the row's command. -/
theorem decode_of_selects {r : OpcodeRow} (hr : r ∈ opcodeMap) {w : Word} (hw : r.selects w = true) :
    decode w = .ok (r.command w) := by
  obtain ⟨l, hreads⟩ := row_reads r hr
  obtain ⟨hop, hfits⟩ := (hreads.describes.selects_iff w).1 hw
  exact (hreads.decodes w hop).ok hfits

/-- A row selects every legal word. -/
theorem exists_selects_of_decode {w : Word} {i : Instr} (h : decode w = .ok i) :
    ∃ r ∈ opcodeMap, r.selects w = true := by
  cases hl : layoutOf (opField w).toNat with
  | none => rw [decode_of_layoutOf_eq_none hl] at h; cases h
  | some l =>
    obtain ⟨r, hr, hdesc, hop, hans⟩ := decode_of_layoutOf_eq_some hl
    have hfits : l.Fits w := by
      by_contra hn
      obtain ⟨e, he⟩ := hans.rejects_iff.2 hn
      rw [he] at h; cases h
    exact ⟨r, hr, (hdesc.selects_iff w).2 ⟨hop, hfits⟩⟩

/-- Rows that select the same word have its `op`, and so the same value. -/
theorem value_eq_of_selects {q r : OpcodeRow} (hq : q ∈ opcodeMap) (hr : r ∈ opcodeMap) {w : Word}
    (hqw : q.selects w = true) (hrw : r.selects w = true) : q.value = r.value := by
  obtain ⟨_, hq⟩ := row_reads q hq
  obtain ⟨_, hr⟩ := row_reads r hr
  have hopq := ((hq.describes.selects_iff w).1 hqw).1
  have hopr := ((hr.describes.selects_iff w).1 hrw).1
  exact fieldsOf_injective (by rw [hq.describes.value, hr.describes.value, ← hopq, ← hopr])

/-- The illegal words of R58 are those the decoder rejects: (a) is an `op` without a layout, (b) to (d) a word that
does not fit its layout. -/
theorem illegalWord_iff_rejected (w : Word) : IllegalWord w ↔ ∃ e, decode w = .error e := by
  unfold IllegalWord
  cases hl : layoutOf (opField w).toNat with
  | none => exact ⟨fun _ => ⟨_, decode_of_layoutOf_eq_none hl⟩, fun _ => trivial⟩
  | some l =>
    obtain ⟨r, _, _, _, hans⟩ := decode_of_layoutOf_eq_some hl
    exact hans.rejects_iff.symm

/-- A word the decoder rejects is fault entry of `IllegalCmd` in any unfaulted unit (R132, R137). -/
theorem runWord_rejected {w : Word} {e : DecodeError} (he : decode w = .error e) {s : State}
    (hf : s.fault = false) : runWord w s = .next (s.raise .illegalCmd w) := by
  rcases runWord_cases w s with ⟨i, hi, _⟩ | ⟨_, _, hrun⟩
  · rw [he] at hi; cases hi
  · rcases s.runIllegal_cases w with ⟨hf', _⟩ | ⟨_, hraise⟩
    · simp [hf] at hf'
    · rw [hrun, hraise]

/-! ## The obligations of 30_encoding.md -/

/-- Settles O3: a legal word has a row, which alone selects it by its `op`; a word that a row selects is legal. -/
theorem decodingFollowsOpcodeMap : Obligations.DecodingFollowsOpcodeMap := by
  refine ⟨rfl, fun w => ?_⟩
  cases hd : decode w with
  | ok i =>
    obtain ⟨r, hr, hrw⟩ := exists_selects_of_decode hd
    exact .inl ⟨r, hr, hrw, hd ▸ decode_of_selects hr hrw, fun q hq hqw => value_eq_of_selects hq hr hqw hrw⟩
  | error e =>
    refine .inr ⟨fun r hr => Bool.eq_false_iff.2 fun hrw => ?_, e, rfl⟩
    rw [decode_of_selects hr hrw] at hd
    cases hd

/-- Settles O4: an illegal word is one the decoder rejects, and presenting it is fault entry alone. -/
theorem illegalWordsRaiseIllegalCmd : Obligations.IllegalWordsRaiseIllegalCmd := by
  refine ⟨illegalWord_iff_rejected, fun w s hw hf => ?_⟩
  obtain ⟨e, he⟩ := (illegalWord_iff_rejected w).1 hw
  exact ⟨s.raise .illegalCmd w, (step_present s (.command w)).trans (runWord_rejected he hf), .raise s .illegalCmd w⟩

end Sys2Proof.Machine

/-! SUPPORT. What the rule of every command says of it in the same words: its word and the words of its `op` (R49 to
R58), when it runs, and its frame. -/

namespace Sys2Proof

/-! ## Encodings as the rules write them -/

@[simp] theorem place_zero (w n lo : Nat) : place w 0#n lo = 0 := by simp [place]

/-- A placed register number or key index is the summand the rules write, `rd << 20`. -/
theorem place_fieldOf (r : Fin 8) (lo : Nat) : place 32 (fieldOf r) lo = Machine.at32 r lo := by
  have hfield : (fieldOf r).setWidth 32 = BitVec.ofNat 32 r.val := by revert r; decide
  rw [place, hfield, Machine.at32]

/-- The word of a command with operands `rd, rs1, rs2`. -/
theorem packR_dss (op : BitVec 8) (rd rs1 rs2 : DReg) :
    packR op (fieldOf rd) (fieldOf rs1) (fieldOf rs2) 0 =
      place 32 op 24 ||| Machine.at32 rd 20 ||| Machine.at32 rs1 16 ||| Machine.at32 rs2 12 := by
  simp [packR, place_fieldOf]

/-- The word of a command with operand `rs1` alone. -/
theorem packR_s (op : BitVec 8) (rs1 : DReg) :
    packR op 0 (fieldOf rs1) 0 0 = place 32 op 24 ||| Machine.at32 rs1 16 := by
  simp [packR, place_fieldOf]

/-- The word of a command with a register or key index and an immediate. -/
theorem packI_fieldOf (op : BitVec 8) (r : Fin 8) (imm : Block) :
    packI op (fieldOf r) imm = place 32 op 24 ||| Machine.at32 r 20 ||| imm.setWidth 32 := by
  rw [packI, place_fieldOf, place, place, BitVec.shiftLeft_zero]

end Sys2Proof

namespace Sys2Proof.Machine

open Laws.OpByte (opcode)

/-! ## The words of an `op` -/

theorem opField_encode (i : Instr) : opField (encode i) = opcode i := by
  cases i with
  | ldi rd imm => exact opField_packI ..
  | ldk k imm => exact opField_packI ..
  | _ => exact opField_packR ..

/-- A legal word of an `op` encodes a command of that `op`, so `mine` need only hold the commands of the `op`. -/
theorem wordsOf_of_opcode {op : BitVec 8} {mine : Instr → Prop} (hmine : ∀ i, opcode i = op → mine i) :
    WordsOf op mine := by
  intro w hw
  cases hd : decode w with
  | ok i =>
    have henc := (encodes_of_decode hd).2
    have hop : opcode i = op := by rw [← opField_encode, henc, hw]
    exact .inl ⟨i, hmine i hop, rfl, henc⟩
  | error e => exact .inr ⟨e, rfl⟩

/-! ## Commands without a check of their own -/

/-- The commands whose rule raises a fault after the common checks of R63 (R130, R131, R134, R135). -/
def hasOwnCheck : Instr → Bool
  | .init => true
  | .ldk _ _ => true
  | .rndk _ _ _ => true
  | .enc _ _ => true
  | _ => false

/-- A command without a key index is well formed. -/
theorem wf_of_unchecked {i : Instr} (hi : hasOwnCheck i = false) : i.wf = true := by
  cases i with
  | ldk k imm => cases hi
  | rndk rd rs1 k => cases hi
  | _ => rfl

theorem not_stops_of_unchecked {i : Instr} {s : State} (hi : hasOwnCheck i = false)
    (hr : needsReady i = true → s.ready = true) (c : Cause) : ¬ Stops i s c := by
  intro hc
  cases hc with
  | illegalCmd hw => simp [wf_of_unchecked hi] at hw
  | notReady _ hn hnot => simp [hr hn] at hnot
  | cfgInvalid h => subst h; cases hi
  | roundKey rd rs1 k h => subst h; cases hi
  | keySet rd rs1 h => subst h; cases hi
  | keyLocked k imm h => subst h; cases hi

/-- A command without a check of its own does its one update in every unfaulted unit that is ready if it must be. -/
theorem exec_unchecked {i : Instr} {s : State} (hi : hasOwnCheck i = false) (hf : s.fault = false)
    (hr : needsReady i = true → s.ready = true) : exec i s = .next (done i s) :=
  exec_done hf (not_stops_of_unchecked hi hr)

/-- The same for a command that does not need `READY` (R22). -/
theorem exec_control {i : Instr} {s : State} (hi : hasOwnCheck i = false) (hn : needsReady i = false)
    (hf : s.fault = false) : exec i s = .next (done i s) :=
  exec_unchecked hi hf fun h => by simp [hn] at h

/-! ## Frames -/

theorem OnlyX.writeX (s : State) (rd : DReg) (v : Block) : OnlyX rd s (s.writeX rd v) :=
  ⟨rfl, fun _ hr => s.readX_writeX_other v hr⟩

theorem OnlyEmits.emit (s : State) (ws : List Word) : OnlyEmits ws s (s.emit ws) := ⟨rfl, rfl⟩

theorem Yields.of_writeX {i : Instr} {s : State} {rd : DReg} {v : Block}
    (he : exec i s = .next (s.writeX rd v)) : Yields i s rd v :=
  ⟨s.writeX rd v, he, s.readX_writeX_same rd v, .writeX s rd v⟩

theorem Faults.of_stops {i : Instr} {s : State} {c : Cause} (hf : s.fault = false) (hc : Stops i s c) :
    Faults i s c :=
  ⟨s.raise c (encode i), exec_stopped hf hc, .raise s c (encode i)⟩

end Sys2Proof.Machine

/-! SUPPORT. Control and data movement: `INIT`, `LDI`, `XOR`, `OUT`, `OUTA` (R64 to R68). -/

namespace Sys2Proof.Machine

/-! ## `INIT` (R64) -/

/-- `INIT` is legal and does not need `READY`, so only its own check can stop it. -/
theorem Stops.of_init {s : State} {c : Cause} (h : Stops .init s c) : s.ready = false ∧ ¬ ConfigValid s.params := by
  cases h with
  | illegalCmd hw => cases hw
  | notReady _ hn => cases hn
  | cfgInvalid _ hr hc => exact ⟨hr, hc⟩
  | roundKey _ _ _ hi => cases hi
  | keySet _ _ hi => cases hi
  | keyLocked _ _ hi => cases hi

theorem exec_init_ready {s : State} (hf : s.fault = false) (hr : s.ready = true) : exec .init s = .next s := by
  have hno : ∀ c, ¬ Stops .init s c := fun c hc => by simp [hc.of_init.1] at hr
  rw [exec_done hf hno, done, if_pos hr]

theorem exec_init_builds {s : State} (hf : s.fault = false) (hr : s.ready = false) (hc : ConfigValid s.params) :
    exec .init s = .next s.buildTables := by
  have hno : ∀ c, ¬ Stops .init s c := fun c h => h.of_init.2 hc
  rw [exec_done hf hno, done, if_neg (by simp [hr])]

/-! ## A unit with invalid parameters never becomes ready (R64) -/

theorem done_ready {i : Instr} (hi : i ≠ .init) (s : State) : (done i s).ready = s.ready := by
  cases i with
  | init => exact absurd rfl hi
  | _ => rfl

section Unready

variable {s t : State}

theorem exec_stays_unready {i : Instr} (hr : s.ready = false) (hc : ¬ ConfigValid s.params)
    (h : exec i s = .next t) : t.ready = false := by
  rcases exec_cases i s with ⟨_, he⟩ | ⟨_, c, _, he⟩ | ⟨_, _, _, hno, he⟩ <;> rw [he] at h <;> cases h
  · exact hr
  · exact hr
  · -- `INIT` would have been stopped
    have hi : i ≠ .init := fun hi => hno .cfgInvalid (.cfgInvalid hi hr hc)
    rw [done_ready hi, hr]

theorem runWord_stays_unready {w : Word} (hr : s.ready = false) (hc : ¬ ConfigValid s.params)
    (h : runWord w s = .next t) : t.ready = false := by
  rcases runWord_cases w s with ⟨_, _, hrun⟩ | ⟨_, _, hrun⟩
  · exact exec_stays_unready hr hc (hrun.symm.trans h)
  · rw [hrun] at h
    cases h
    rcases s.runIllegal_cases w with ⟨_, ht⟩ | ⟨_, ht⟩ <;> simp [ht, hr]

theorem step_stays_unready (hr : s.ready = false) (hc : ¬ ConfigValid s.params) (h : step s = .next t) :
    t.ready = false := by
  rcases step_cases s with ⟨_, hs⟩ | ⟨a, rest, _, hs⟩ <;> rw [hs] at h
  · cases h; exact hr
  · rcases runAction_cases a { s with input := rest } with ⟨_, hrun⟩ | ⟨w, _, hrun⟩ | ⟨_, _, hrun⟩ <;> rw [hrun] at h
    · cases h; rfl
    · exact runWord_stays_unready (s := { s with input := rest }) hr hc h
    · cases h; exact hr

end Unready

/-! ## The obligations of 40_control.md -/

/-- Settles O24: the three branches of `INIT`, and a step of a unit whose parameters are not valid. -/
theorem initValidatesThenBuildsOnce : Obligations.InitValidatesThenBuildsOnce := by
  refine ⟨by decide, wordsOf_of_opcode fun i hi => ?words, fun s => exec_init_ready, fun s hf hr hc => ?invalid,
    fun s hf hr hc => ?builds, fun s t hr hc h => ⟨step_stays_unready hr hc h, step_params h⟩, ?ref, ?bad⟩
  case words =>
    cases i with
    | init => rfl
    | _ => cases hi
  case invalid => exact .of_stops hf (.cfgInvalid rfl hr hc)
  case builds =>
    exact ⟨s.buildTables, exec_init_builds hf hr hc, s.buildTables_ready, s.readSptab_buildTables,
      s.readPartab_buildTables, rfl⟩
  case ref => exact ⟨_, exec_init_builds rfl rfl (by decide), by decide⟩
  case bad => exact ⟨_, exec_stopped rfl (.cfgInvalid rfl rfl (by decide)), by decide, by decide⟩

/-- Settles O25: `LDI` runs in every unfaulted unit and writes its register alone. -/
theorem ldiLoadsTheImmediate : Obligations.LdiLoadsTheImmediate := by
  refine ⟨packI_fieldOf 0x02, wordsOf_of_opcode fun i hi => ?words,
    fun s rd imm hf => .of_writeX (exec_control rfl rfl hf), by decide⟩
  case words =>
    cases i with
    | ldi rd imm => exact ⟨rd, imm, rfl⟩
    | _ => cases hi

/-- Settles O26: `XOR` runs in every unfaulted unit and writes the exclusive-or, bit by bit, to its register alone. -/
theorem xorAddsBlocks : Obligations.XorAddsBlocks := by
  refine ⟨packR_dss 0x03, wordsOf_of_opcode fun i hi => ?words, fun s rd rs1 rs2 hf => ?value,
    by decide, by decide⟩
  case words =>
    cases i with
    | xor rd rs1 rs2 => exact ⟨rd, rs1, rs2, rfl⟩
    | _ => cases hi
  case value =>
    refine ⟨s.readX rs1 ^^^ s.readX rs2, .of_writeX (exec_control rfl rfl hf), fun b => BitVec.getLsbD_xor, ?_⟩
    rintro rfl
    exact BitVec.xor_self

/-- Settles O27: `OUT` runs in every unfaulted unit and emits the register's zero-extension alone. -/
theorem outEmitsTheRegister : Obligations.OutEmitsTheRegister := by
  refine ⟨packR_s 0x04, wordsOf_of_opcode fun i hi => ?words, fun s rs1 hf => ?value, by decide⟩
  case words =>
    cases i with
    | out rs1 => exact ⟨rs1, rfl⟩
    | _ => cases hi
  case value =>
    exact ⟨_, zext32 (s.readX rs1), exec_control rfl rfl hf, .emit s _, BitVec.toNat_setWidth_of_le (by decide)⟩

/-- Settles O28: `OUTA` runs in every unfaulted unit and emits `ACC` alone. -/
theorem outaEmitsTheAccumulator : Obligations.OutaEmitsTheAccumulator := by
  refine ⟨by decide, wordsOf_of_opcode fun i hi => ?words,
    fun s hf => ⟨_, exec_control rfl rfl hf, .emit s _⟩, ⟨_, exec_control rfl rfl rfl, rfl⟩⟩
  case words =>
    cases i with
    | outa => rfl
    | _ => cases hi

end Sys2Proof.Machine

/-! SUPPORT. The laws of the pure functions: parity and inner product (R70, R71), the bit permutation (R72),
substitution and the combined transform (R73 to R75, R87). -/

namespace Sys2Proof.Machine

/-! ## Parity and inner product -/

/-- The parity of the lowest `n` bits counts those that are 1, modulo 2 (R70). -/
theorem toNat_parUpTo (v : Block) (n : Nat) :
    (parUpTo v n).toNat = (∑ i ∈ Finset.range n, if v.getLsbD i = true then 1 else 0) % 2 := by
  induction n with
  | zero => rfl
  | succ n ih =>
    have hxor : ∀ a b : Bool, (a ^^ b).toNat = (a.toNat + if b = true then 1 else 0) % 2 := by decide
    rw [parUpTo, hxor, ih, Finset.sum_range_succ, Nat.mod_add_mod]

theorem toNat_par (v : Block) :
    (par v).toNat = (Finset.univ.filter fun b : Fin 16 => v.getLsbD b.val = true).card % 2 := by
  rw [par, toNat_parUpTo, Finset.card_filter, Finset.sum_range]

@[simp] theorem par_zero : par 0#16 = false := parUpTo_zero 16

theorem par_xor (a b : Block) : par (a ^^^ b) = (par a ^^ par b) := parUpTo_xor a b 16

theorem dot_comm (m v : Block) : dot m v = dot v m := congrArg par (BitVec.and_comm m v)

@[simp] theorem dot_zero_left (v : Block) : dot 0#16 v = false := by simp [dot]

theorem dot_self (v : Block) : dot v v = par v := congrArg par BitVec.and_self

theorem and_xor_blocks (m a b : Block) : m &&& (a ^^^ b) = (m &&& a) ^^^ (m &&& b) := by
  ext i hi
  simp [Bool.and_xor_distrib_left]

theorem dot_xor (m a b : Block) : dot m (a ^^^ b) = (dot m a ^^ dot m b) := by
  rw [dot, and_xor_blocks, par_xor, ← dot, ← dot]

/-! ## The parameters of a valid configuration (R6) -/

theorem sboxInvAt_sboxAt {p : Params} (h : ConfigValid p) (u : Nibble) : sboxInvAt p (sboxAt p u) = u := h.1 u.toFin

/-- The S-box of a valid configuration has a left inverse, so it is a bijection of the 16 nibbles and the left inverse
is also a right one. -/
theorem sboxAt_sboxInvAt {p : Params} (h : ConfigValid p) (u : Nibble) : sboxAt p (sboxInvAt p u) = u := by
  have hleft : Function.LeftInverse (sboxInvAt p) (sboxAt p) := sboxInvAt_sboxAt h
  exact hleft.rightInverse_of_surjective (Finite.surjective_of_injective hleft.injective) u

theorem permAt_permAt {p : Params} (h : ConfigValid p) (i : Nibble) : permAt p (permAt p i) = i := h.2 i.toFin

/-! ## The bit permutation -/

/-- A block is its sixteen bits, each at a position that a nibble counts. -/
theorem block_ext_bit {u v : Block} (h : ∀ i : Nibble, u.getLsbD i.toNat = v.getLsbD i.toNat) : u = v := by
  apply BitVec.eq_of_getLsbD_eq
  intro i hi
  simpa [Nat.mod_eq_of_lt hi] using h (BitVec.ofNat 4 i)

section Permutation

variable {p : Params} (h : ConfigValid p)
include h

/-- Bit `i` moves to position `PERM[i]` (R72). -/
theorem getLsbD_p16_permAt (v : Block) (i : Nibble) : (p16 p v).getLsbD (permAt p i).toNat = v.getLsbD i.toNat := by
  have hmoved := getLsbD_p16UpTo p (permAt_injective h) v 16 i.toNat (by omega) i.isLt
  simpa [p16_of_valid h, i.isLt] using hmoved

/-- The permutation is an involution, so bit `i` comes from position `PERM[i]`. -/
theorem getLsbD_p16 (v : Block) (i : Nibble) : (p16 p v).getLsbD i.toNat = v.getLsbD (permAt p i).toNat := by
  rw [← getLsbD_p16_permAt h v (permAt p i), permAt_permAt h]

theorem p16_p16 (v : Block) : p16 p (p16 p v) = v :=
  block_ext_bit fun i => by rw [getLsbD_p16 h, getLsbD_p16_permAt h]

theorem p16_zero : p16 p 0#16 = 0#16 :=
  block_ext_bit fun i => by simp [getLsbD_p16 h]

theorem p16_allOnes : p16 p (BitVec.allOnes 16) = BitVec.allOnes 16 :=
  block_ext_bit fun i => by
    rw [getLsbD_p16 h, BitVec.getLsbD_allOnes, BitVec.getLsbD_allOnes, decide_eq_true i.isLt,
      decide_eq_true (permAt p i).isLt]

theorem p16_xor (a b : Block) : p16 p (a ^^^ b) = p16 p a ^^^ p16 p b := by
  rw [p16_of_valid h, p16_of_valid h, p16_of_valid h, p16UpTo_xor]

/-- `PERM` pairs the one bits of `P16(v)` with those of `v`. -/
theorem card_bits_p16 (v : Block) :
    (Finset.univ.filter fun b : Fin 16 => (p16 p v).getLsbD b.val = true).card =
      (Finset.univ.filter fun b : Fin 16 => v.getLsbD b.val = true).card := by
  have hinv : ∀ b : Fin 16, (permAt p (BitVec.ofFin (permAt p (BitVec.ofFin b)).toFin)).toFin = b :=
    fun b => congrArg BitVec.toFin (permAt_permAt h (BitVec.ofFin b))
  refine Finset.card_bij' (fun b _ => (permAt p (BitVec.ofFin b)).toFin) (fun b _ => (permAt p (BitVec.ofFin b)).toFin)
    (fun b hb => ?_) (fun b hb => ?_) (fun b _ => hinv b) (fun b _ => hinv b)
  · have hbit := (Finset.mem_filter.1 hb).2
    exact Finset.mem_filter.2 ⟨Finset.mem_univ _, (getLsbD_p16 h v (BitVec.ofFin b)).symm.trans hbit⟩
  · have hbit := (Finset.mem_filter.1 hb).2
    exact Finset.mem_filter.2 ⟨Finset.mem_univ _, (getLsbD_p16_permAt h v (BitVec.ofFin b)).trans hbit⟩

end Permutation

/-- Under REF `PERM[4i + j] = 4j + i`: the nibble index and the bit index change places (R7). -/
theorem permAt_ref {i j : Nat} (hi : i < 4) (hj : j < 4) :
    (permAt refParams (BitVec.ofNat 4 (4 * i + j))).toNat = 4 * j + i := by
  interval_cases i <;> interval_cases j <;> rfl

/-- Bit `j` of nibble `i` comes from bit `i` of nibble `j` under REF. -/
theorem getLsbD_nib_p16_ref (v : Block) {i j : Nat} (hi : i < 4) (hj : j < 4) :
    (nib (p16 refParams v) i).getLsbD j = (nib v j).getLsbD i := by
  have hvalid : ConfigValid refParams := by decide
  have hbit := getLsbD_p16 hvalid v (BitVec.ofNat 4 (4 * i + j))
  rw [permAt_ref hi hj, BitVec.toNat_ofNat, Nat.mod_eq_of_lt (by omega)] at hbit
  rw [getLsbD_nib _ _ _ hj, getLsbD_nib _ _ _ hi, hbit]

/-! ## Substitution and the combined transform -/

theorem nib_s16 (p : Params) (v : Block) {n : Nat} (hn : n < 4) : nib (s16 p v) n = sboxAt p (nib v n) :=
  nib_mapNibbles _ v hn

theorem nib_is16 (p : Params) (v : Block) {n : Nat} (hn : n < 4) : nib (is16 p v) n = sboxInvAt p (nib v n) :=
  nib_mapNibbles _ v hn

section Inverses

variable {p : Params} (h : ConfigValid p)
include h

theorem is16_s16 (v : Block) : is16 p (s16 p v) = v :=
  block_ext_nib fun n hn => by rw [nib_is16 p _ hn, nib_s16 p _ hn, sboxInvAt_sboxAt h]

theorem s16_is16 (v : Block) : s16 p (is16 p v) = v :=
  block_ext_nib fun n hn => by rw [nib_s16 p _ hn, nib_is16 p _ hn, sboxAt_sboxInvAt h]

theorem ispf_spf (v : Block) : ispf p (spf p v) = v := by
  rw [ispf, spf, p16_p16 h, is16_s16 h]

theorem spf_ispf (v : Block) : spf p (ispf p v) = v := by
  rw [ispf, spf, s16_is16 h, p16_p16 h]

theorem spf_bijective : Function.Bijective (spf p) :=
  Function.bijective_iff_has_inverse.2 ⟨ispf p, ispf_spf h, spf_ispf h⟩

end Inverses

/-! ## The tables of a ready unit (R26) -/

theorem TablesFrozen.readSptab {s : State} (h : TablesFrozen s) (hr : s.ready = true) (i : Block) :
    s.readSptab i = spf s.params i := by
  obtain ⟨_, hsp, _⟩ := h hr
  exact hsp i

theorem TablesFrozen.readPartab {s : State} (h : TablesFrozen s) (hr : s.ready = true) (i : Block) :
    s.readPartab i = par i := by
  obtain ⟨_, _, hpar⟩ := h hr
  exact hpar i

/-! ## The obligations about the pure functions -/

/-- Settles O48: parity by induction on the number of bits, and the inner product through it. -/
theorem parityAndInnerProductLaws : Obligations.ParityAndInnerProductLaws := by
  refine ⟨fun v => ?count, par_zero, par_xor, fun m v => ⟨rfl, dot_comm m v⟩, dot_zero_left, dot_xor,
    fun s m v hr ht => (ht.readPartab hr (m &&& v)).symm⟩
  case count =>
    rw [← toNat_par]
    cases par v <;> rfl

/-- Settles O49: each law from where the bits go, and under REF from the entries of `PERM`. -/
theorem permutationMovesEachBit : Obligations.PermutationMovesEachBit :=
  ⟨fun p h => ⟨fun v i => getLsbD_p16_permAt h v (BitVec.ofFin i),
      fun v i => getLsbD_p16 h v (BitVec.ofFin i), card_bits_p16 h, p16_zero h, p16_allOnes h, p16_xor h, p16_p16 h⟩,
    fun v i j => getLsbD_nib_p16_ref v, by decide, by decide, by decide⟩

/-- Settles O50: `IS16` undoes `S16` nibble by nibble and `P16` undoes itself, so `ISPf` is the inverse of `SPf`. -/
theorem combinedTransformIsABijection : Obligations.CombinedTransformIsABijection :=
  ⟨by decide, by decide, by decide, by decide, by decide, by decide, by decide, fun p =>
    ⟨fun v _ => nib_s16 p v, fun v _ => nib_is16 p v, fun _ => ⟨rfl, rfl⟩, fun h =>
      ⟨fun v => ⟨is16_s16 h v, s16_is16 h v⟩, fun v => ⟨ispf_spf h v, spf_ispf h v⟩, spf_bijective h⟩⟩⟩

end Sys2Proof.Machine

/-! SUPPORT. The SPN primitives: `SUB`, `ISUB`, `PERM`, `SP`, `PAR`, `DOT` (R78 to R83). -/

namespace Sys2Proof

/-- The word of a command with operands `rd, rs1`. -/
theorem packR_ds (op : BitVec 8) (rd rs1 : DReg) :
    packR op (fieldOf rd) (fieldOf rs1) 0 0 = place 32 op 24 ||| Machine.at32 rd 20 ||| Machine.at32 rs1 16 := by
  simp [packR, place_fieldOf]

end Sys2Proof

namespace Sys2Proof.Machine

/-! ## Commands that need `READY` and check nothing else -/

section Checked

variable {i : Instr} {s : State} (hi : hasOwnCheck i = false) (hf : s.fault = false)
include hi hf

theorem exec_ready (hr : s.ready = true) : exec i s = .next (done i s) := exec_unchecked hi hf fun _ => hr

theorem eq_done_of_exec {t : State} (hr : s.ready = true) (h : exec i s = .next t) : t = done i s := by
  rw [exec_ready hi hf hr] at h
  cases h
  rfl

theorem faults_notReady (hn : needsReady i = true) (hr : s.ready = false) : Faults i s .notReady :=
  .of_stops hf (.notReady (wf_of_unchecked hi) hn hr)

/-- Two such commands in a row, the second on the unit as the first leaves it. -/
theorem eq_done_of_exec_exec {j : Instr} {t u : State} (hj : hasOwnCheck j = false) (hr : s.ready = true)
    (hfirst : exec i s = .next t) (hsecond : exec j t = .next u) : u = done j (done i s) := by
  have hinit : i ≠ .init := by rintro rfl; cases hi
  obtain rfl := eq_done_of_exec hi hf hr hfirst
  exact eq_done_of_exec hj ((done_fault i s).trans hf) ((done_ready hinit s).trans hr) hsecond

end Checked

@[simp] theorem toNat_bitBlock (b : Bool) : (bitBlock b).toNat = b.toNat := by cases b <;> rfl

/-! ## The obligations of 41_primitives.md -/

/-- Settles O29: `SUB` of a ready unit writes `S16` of its source, nibble by nibble, to its register alone. -/
theorem subSubstitutesNibbles : Obligations.SubSubstitutesNibbles := by
  refine ⟨packR_ds 0x10, wordsOf_of_opcode fun i hi => ?words,
    fun s rd rs1 hf hr => ⟨.of_writeX (exec_ready rfl hf hr), fun n => nib_s16 s.params (s.readX rs1)⟩,
    fun s rd rs1 hf => faults_notReady rfl hf rfl, by decide, by decide⟩
  case words =>
    cases i with
    | sub rd rs1 => exact ⟨rd, rs1, rfl⟩
    | _ => cases hi

/-- Settles O30: `ISUB` writes `IS16` of its source, and `S16` and `IS16` undo each other under valid parameters. -/
theorem isubInvertsSub : Obligations.IsubInvertsSub := by
  refine ⟨packR_ds 0x11, wordsOf_of_opcode fun i hi => ?words,
    fun s rd rs1 hf hr => ⟨.of_writeX (exec_ready rfl hf hr), fun n => nib_is16 s.params (s.readX rs1)⟩,
    fun s t u rd q rs1 hf hr hc hrun => ?restores,
    fun s rd rs1 hf => faults_notReady rfl hf rfl, by decide, by decide⟩
  case words =>
    cases i with
    | isub rd rs1 => exact ⟨rd, rs1, rfl⟩
    | _ => cases hi
  case restores =>
    rcases hrun with ⟨hsub, hisub⟩ | ⟨hisub, hsub⟩
    · obtain rfl := eq_done_of_exec_exec rfl hf rfl hr hsub hisub
      simp [done, is16_s16 hc]
    · obtain rfl := eq_done_of_exec_exec rfl hf rfl hr hisub hsub
      simp [done, s16_is16 hc]

/-- Settles O31: `PERM` writes `P16` of its source, which is its own inverse under valid parameters. -/
theorem permMovesBits : Obligations.PermMovesBits := by
  refine ⟨packR_ds 0x12, wordsOf_of_opcode fun i hi => ?words,
    fun s rd rs1 hf hr => .of_writeX (exec_ready rfl hf hr),
    fun s t u rd q rs1 hf hr hc hfirst hsecond => ?restores,
    fun s rd rs1 hf => faults_notReady rfl hf rfl, by decide, by decide⟩
  case words =>
    cases i with
    | perm rd rs1 => exact ⟨rd, rs1, rfl⟩
    | _ => cases hi
  case restores =>
    obtain rfl := eq_done_of_exec_exec rfl hf rfl hr hfirst hsecond
    simp [done, p16_p16 hc]

/-- Settles O32: `SP` writes the `SPTAB` entry of its source, which in a ready unit is what `SUB` then `PERM` make
of it. -/
theorem spLooksUpTheCombinedTransform : Obligations.SpLooksUpTheCombinedTransform := by
  refine ⟨packR_ds 0x13, wordsOf_of_opcode fun i hi => ?words,
    fun s rd rs1 hf hr => ⟨.of_writeX (exec_ready rfl hf hr), fun ht => ht.readSptab hr (s.readX rs1)⟩,
    fun s t u t' rd q rs1 hf hr ht hsub hperm hsp => ?same,
    fun s rd rs1 hf => faults_notReady rfl hf rfl, by decide, by decide⟩
  case words =>
    cases i with
    | sp rd rs1 => exact ⟨rd, rs1, rfl⟩
    | _ => cases hi
  case same =>
    obtain rfl := eq_done_of_exec_exec rfl hf rfl hr hsub hperm
    obtain rfl := eq_done_of_exec rfl hf hr hsp
    simp [done, ht.readSptab hr, spf]

/-- Settles O33: `PAR` writes the `PARTAB` entry of its source, zero-extended, which in a ready unit is the number of
one bits modulo 2. -/
theorem parCountsBitsModTwo : Obligations.ParCountsBitsModTwo := by
  refine ⟨packR_ds 0x14, wordsOf_of_opcode fun i hi => ?words, fun s rd rs1 hf hr => ?value,
    fun s rd rs1 hf => faults_notReady rfl hf rfl, by decide, by decide, by decide, by decide, by decide⟩
  case words =>
    cases i with
    | par rd rs1 => exact ⟨rd, rs1, rfl⟩
    | _ => cases hi
  case value =>
    refine ⟨_, .of_writeX (exec_ready rfl hf hr), toNat_bitBlock _, fun ht => ?_⟩
    rw [toNat_bitBlock, ht.readPartab hr, toNat_par]

/-- Settles O34: `DOT` writes the `PARTAB` entry of the AND of its sources, zero-extended, which in a ready unit is
their inner product. -/
theorem dotIsTheInnerProduct : Obligations.DotIsTheInnerProduct := by
  refine ⟨packR_dss 0x15, wordsOf_of_opcode fun i hi => ?words, fun s rd rs1 rs2 hf hr => ?value,
    fun s rd rs1 rs2 hf => faults_notReady rfl hf rfl, by decide, by decide⟩
  case words =>
    cases i with
    | dot rd rs1 rs2 => exact ⟨rd, rs1, rs2, rfl⟩
    | _ => cases hi
  case value =>
    have hyields : ∀ a b, Yields (.dot rd a b) s rd (bitBlock (s.readPartab (s.readX a &&& s.readX b))) :=
      fun a b => .of_writeX (exec_ready rfl hf hr)
    refine ⟨_, hyields rs1 rs2, ?symmetric, toNat_bitBlock _, fun ht => ?frozen⟩
    case symmetric =>
      rw [BitVec.and_comm]
      exact hyields rs2 rs1
    case frozen =>
      rw [ht.readPartab hr, toNat_bitBlock, ← dot]
      refine ⟨rfl, fun hzero => ?_, ?_⟩
      · have hdot : dot 0 (s.readX rs2) = false := dot_zero_left _
        rw [hzero, hdot]
        rfl
      · rintro rfl
        rw [dot_self]

end Sys2Proof.Machine

/-! SUPPORT. Rounds and encryption as pure functions (R85 to R89). -/

namespace Sys2Proof.Machine

section Rounds

variable (sp : Block → Block) (key : Nat → Block) (v : Block)

/-- A round with key zero mixes nothing in (R85). -/
@[simp] theorem roundWith_zero : roundWith sp v 0#16 = sp v := by simp [roundWith]

/-- Rounds whose keys are all zero are so many applications of the combined transform (R86). -/
theorem roundsUpTo_zeroKeys {n : Nat} (hkey : ∀ i < n, key i = 0) : roundsUpTo sp key v n = sp^[n] v := by
  induction n with
  | zero => rfl
  | succ n ih =>
    have hlast : key n = 0#16 := hkey n n.lt_succ_self
    rw [roundsUpTo, ih fun i hi => hkey i (Nat.lt_succ_of_lt hi), hlast, roundWith_zero, Function.iterate_succ_apply']

theorem encWith_zeroKeys (hkey : ∀ i < 7, key i = 0) : encWith sp key v = sp^[6] v := by
  have hwhiten : key 6 = 0#16 := hkey 6 (by decide)
  rw [encWith, hwhiten, BitVec.xor_zero, roundsUpTo_zeroKeys sp key v fun i hi => hkey i (by omega)]

end Rounds

section Decryption

variable {p : Params} (h : ConfigValid p)
include h

/-- `DecRound` undoes `Round` with the same key (R88). -/
theorem decRound_roundWith (v k : Block) : decRound p (roundWith (spf p) v k) k = v := by
  rw [decRound, roundWith, ispf_spf h, BitVec.xor_assoc, BitVec.xor_self, BitVec.xor_zero]

/-- Undoing `n` rounds, the last first, gives back the block they started from. -/
theorem unroundsDownFrom_roundsUpTo (key : Nat → Block) (v : Block) (n : Nat) :
    unroundsDownFrom p key (roundsUpTo (spf p) key v n) n = v := by
  induction n with
  | zero => rfl
  | succ n ih => rw [roundsUpTo, unroundsDownFrom, decRound_roundWith h, ih]

theorem decFull_encWith (key : Nat → Block) (v : Block) : decFull p key (encWith (spf p) key v) = v := by
  rw [decFull, encWith, BitVec.xor_assoc, BitVec.xor_self, BitVec.xor_zero, unroundsDownFrom_roundsUpTo h]

/-- Encryption has a left inverse on a finite set, so it is a bijection. -/
theorem encWith_bijective (key : Nat → Block) : Function.Bijective (encWith (spf p) key) := by
  have hleft : Function.LeftInverse (decFull p key) (encWith (spf p) key) := decFull_encWith h key
  exact Finite.injective_iff_bijective.1 hleft.injective

end Decryption

/-- Settles O51: encryption unrolled, without its keys, and undone by full decryption. -/
theorem encryptionIsSixRoundsAndWhitening : Obligations.EncryptionIsSixRoundsAndWhitening :=
  fun p key => ⟨fun _ _ => ⟨rfl, rfl⟩, fun _ => rfl, fun hkey v => encWith_zeroKeys (spf p) key v fun n _ => hkey n,
    fun h => ⟨encWith_bijective h key, decRound_roundWith h⟩⟩

/-- Settles O52: each `DecRound` peels the last of the rounds that are left. -/
theorem fullDecryptionRecoversTheBlock : Obligations.FullDecryptionRecoversTheBlock :=
  fun _ key => ⟨fun _ => rfl, fun v h => decFull_encWith h key v⟩

end Sys2Proof.Machine

/-! SUPPORT. Round function, encryption, keys: `LDK`, `KCLR`, `ROUND`, `RNDK`, `ENC`, `ISP`, `DECR` (R91 to R97). -/

namespace Sys2Proof.Machine

open Laws.OpByte (opcode)

/-! ## Commands that check `KVALID` -/

/-- The commands of an `op` need only be looked at when they are well formed: the decoder gives no others. -/
theorem wordsOf_of_wf {op : BitVec 8} {mine : Instr → Prop}
    (hmine : ∀ i, i.wf = true → opcode i = op → mine i) : WordsOf op mine := by
  intro w hw
  rcases wordsOf_of_opcode (fun _ hop => hop) w hw with ⟨i, hop, hdec, henc⟩ | hrejected
  · exact .inl ⟨i, hmine i (encodes_of_decode hdec).1 hop, hdec, henc⟩
  · exact .inr hrejected

/-- What a command's own check asks of `KVALID` (R91, R94, R95). -/
def KeysFit (i : Instr) (s : State) : Prop :=
  match i with
  | .ldk k _ => s.keyValid k = false
  | .rndk _ _ k => s.keyValid k = true
  | .enc _ _ => ∀ n < 7, s.keyValid n = true
  | _ => True

/-- A well-formed command does its one update in an unfaulted unit that is ready if it must be and whose keys are as
the command asks; `INIT` alone asks more. -/
theorem exec_of_keysFit {i : Instr} {s : State} (hi : i ≠ .init) (hw : i.wf = true) (hf : s.fault = false)
    (hr : needsReady i = true → s.ready = true) (hk : KeysFit i s) : exec i s = .next (done i s) := by
  refine exec_done hf fun c hc => ?_
  cases hc with
  | illegalCmd hill => simp [hill] at hw
  | notReady _ hn hnot => simp [hr hn] at hnot
  | cfgInvalid h => exact hi h
  | roundKey rd rs1 k h _ _ hunloaded => subst h; exact absurd hk (Bool.eq_false_iff.1 hunloaded)
  | keySet rd rs1 h _ hunloaded =>
    subst h
    exact absurd ((State.allKeysValid_iff s).2 hk) (Bool.eq_false_iff.1 hunloaded)
  | keyLocked k imm h _ hloaded => subst h; exact absurd hloaded (Bool.eq_false_iff.1 hk)

/-! ## Loading a key -/

theorem OnlyKey.loadKey (s : State) {n : Nat} (hn : n < 7) (v : Block) : OnlyKey n s (s.loadKey n v) :=
  ⟨rfl, fun m hm => ⟨by rw [s.readKey_loadKey n m v hn, if_neg hm], by rw [s.keyValid_loadKey n m v hn, if_neg hm]⟩⟩

/-- Bit `k` of the `KVALID` field is `KVALID[k]` (R20). -/
theorem State.getLsbD_kvalidUpTo (s : State) {n b : Nat} (hn : n ≤ 7) :
    (s.kvalidUpTo n).getLsbD b = (decide (b < n) && s.keyValid b) := by
  induction n with
  | zero => simp [State.kvalidUpTo]
  | succ n ih =>
    rw [State.kvalidUpTo, BitVec.getLsbD_or, ih (by omega), getLsbD_place]
    rcases Nat.lt_trichotomy b n with hlt | rfl | hgt
    · simp [hlt, Nat.lt_succ_of_lt hlt]
    · have hb : b < 7 := by omega
      simp [hb]
    · have hpast : ¬ b < n ∧ ¬ b < n + 1 ∧ b - n ≠ 0 := by omega
      simp [hpast]

/-- Bit `8 + k` of `STATUS` is `KVALID[k]` (R20). -/
theorem State.getLsbD_status_kvalid (s : State) {b : Nat} (hb : b < 7) : s.status.getLsbD (8 + b) = s.keyValid b := by
  have hposition : 8 + b < 32 ∧ ¬ 16 ≤ 8 + b := by omega
  simp [State.status, State.getLsbD_kvalidUpTo, hb, hposition, -BitVec.getLsbD_eq_getElem]

theorem exec_ldk {s : State} {k : KeyField} (imm : Block) (hf : s.fault = false) (hk : k.val < 7)
    (hv : s.keyValid k = false) : exec (.ldk k imm) s = .next (s.loadKey k imm) :=
  exec_of_keysFit (by simp) (decide_eq_true hk) hf (fun hn => nomatch hn) hv

/-! ## Unloading the key set -/

theorem State.keyValid_of_lt (s : State) {n : Nat} (hn : n < 7) : s.keyValid n = s.kvalid[n] := by
  simp [State.keyValid, hn]

/-- With no key loaded, unloading the key set changes nothing (R92). -/
theorem State.unloadKeys_of_unloaded {s : State} (hv : ∀ n < 7, s.keyValid n = false) : s.unloadKeys = s := by
  have hbit : ∀ (n : Nat) (hn : n < 7), s.kvalid[n] = false :=
    fun n hn => by rw [← s.keyValid_of_lt hn, hv n hn]
  have hkvalid : Vector.replicate 7 false = s.kvalid := by
    ext n hn
    simp [hbit n hn]
  have hkeys : (Vector.ofFn fun j => if s.kvalid[j] then Config.unspecifiedKey s.freeCount j else s.k[j]) = s.k := by
    ext n hn
    simp [hbit n hn]
  simp only [State.unloadKeys, hkvalid, hkeys, (State.anyKeyValid_eq_false_iff s).2 hv, Bool.false_eq_true, if_false]

theorem exec_kclr {s : State} (hf : s.fault = false) : exec .kclr s = .next s.unloadKeys := exec_control rfl rfl hf

/-! ## The tables and the parameters while registers are written -/

@[simp] theorem State.readSptab_writeX (s : State) (r : DReg) (v : Block) : (s.writeX r v).readSptab = s.readSptab := rfl

theorem TablesFrozen.configValid {s : State} (h : TablesFrozen s) (hr : s.ready = true) : ConfigValid s.params := by
  obtain ⟨hvalid, _, _⟩ := h hr
  exact hvalid

/-- In a ready unit the table is the combined transform, as a function (R76). -/
theorem TablesFrozen.readSptab_eq {s : State} (h : TablesFrozen s) (hr : s.ready = true) :
    s.readSptab = spf s.params :=
  funext (h.readSptab hr)

/-! ## The examples of R95 under REF, round by round -/

theorem rounds_ref_zeroKeys :
    [1, 2, 3, 4, 5, 6].map (roundsUpTo (spf refParams) (fun _ => 0) 0x1234) =
      [0x4C16, 0x1695, 0x7975, 0xF151, 0x2FAA, 0x8F7C] := by
  decide

theorem rounds_ref_refKeys :
    [1, 2, 3, 4, 5, 6].map (roundsUpTo (spf refParams) refKeys 0xBEEF) =
      [0x3E67, 0x6A8D, 0x35CC, 0x641E, 0x6296, 0xCB5A] := by
  decide

/-- The whitening of the sixth intermediate value. -/
theorem encWith_ref_zeroKeys : encWith (spf refParams) (fun _ => 0) 0x1234 = 0x8F7C := by
  have hsixth : roundsUpTo (spf refParams) (fun _ => 0) 0x1234 6 = 0x8F7C := congrArg (·.getD 5 0) rounds_ref_zeroKeys
  rw [encWith, hsixth]
  rfl

/-- The whitening of the sixth intermediate value. -/
theorem encWith_ref_refKeys : encWith (spf refParams) refKeys 0xBEEF = 0xA624 := by
  have hsixth : roundsUpTo (spf refParams) refKeys 0xBEEF 6 = 0xCB5A := congrArg (·.getD 5 0) rounds_ref_refKeys
  rw [encWith, hsixth]
  rfl

/-! ## The obligations of 42_cipher.md -/

/-- Settles O35: `LDK` with the key unloaded writes it and its `KVALID` alone, and with the key loaded is stopped. -/
theorem ldkLoadsAKeyOnce : Obligations.LdkLoadsAKeyOnce := by
  refine ⟨packI_fieldOf 0x20, wordsOf_of_wf fun i hw hi => ?words, fun s k imm hf hk hv => ?loads,
    fun s k imm hf hk hv => .of_stops hf (.keyLocked k imm rfl (decide_eq_true hk) hv), ?fromReset, by decide⟩
  case words =>
    cases i with
    | ldk k imm => exact ⟨k, imm, rfl, of_decide_eq_true hw⟩
    | _ => cases hi
  case loads =>
    have hloaded : (s.loadKey k imm).keyValid k = true := by simp [s.keyValid_loadKey k k imm hk]
    refine ⟨s.loadKey k imm, exec_ldk imm hf hk hv, ?_, hloaded, ?_, .loadKey s hk imm⟩
    · simp [s.readKey_loadKey k k imm hk]
    · rw [State.getLsbD_status_kvalid _ hk, hloaded]
  case fromReset =>
    exact ⟨_, _, exec_ldk 0xA1B2 rfl (by decide) (by decide), by decide, by decide,
      exec_stopped rfl (.keyLocked 0 0x0002 rfl rfl (by decide)), by decide, by decide, by decide⟩

/-- Settles O36: `KCLR` has no check of its own, and unloading writes nothing but keys and their `KVALID`. -/
theorem kclrUnloadsTheKeySet : Obligations.KclrUnloadsTheKeySet := by
  refine ⟨by decide, wordsOf_of_opcode fun i hi => ?words,
    fun s hf => ⟨s.unloadKeys, exec_kclr hf, fun n _ => s.keyValid_unloadKeys n, rfl, State.unloadKeys_of_unloaded⟩,
    ?fromReset⟩
  case words =>
    cases i with
    | kclr => rfl
    | _ => cases hi
  case fromReset =>
    exact ⟨_, _, _, exec_ldk 0x0001 rfl (by decide) (by decide), exec_kclr rfl,
      exec_ldk 0x0002 rfl (by decide) (State.keyValid_unloadKeys _ _), by decide, by decide⟩

/-- Settles O37: `ROUND` writes the `SPTAB` entry of the XOR of its sources, as `XOR` and `SP` do in two steps and, in
a ready unit, `XOR`, `SUB` and `PERM` in three. -/
theorem roundIsOneRound : Obligations.RoundIsOneRound := by
  refine ⟨packR_dss 0x22, wordsOf_of_opcode fun i hi => ?words, fun s rd rs1 rs2 hf hr => ?value,
    fun s t u t' rd q rs1 rs2 hf hr hxor hsp hround => ?twoSteps,
    fun s t u w t' rd q rs1 rs2 hf hr ht hxor hsub hperm hround => ?threeSteps,
    fun s rd rs1 rs2 hf => faults_notReady rfl hf rfl, by decide, by decide⟩
  case words =>
    cases i with
    | round rd rs1 rs2 => exact ⟨rd, rs1, rs2, rfl⟩
    | _ => cases hi
  case value =>
    refine ⟨_, .of_writeX (exec_ready rfl hf hr), rfl, fun ht => ⟨ht.readSptab hr _, ?_⟩⟩
    rintro rfl
    rw [roundWith, BitVec.xor_self, ht.readSptab hr]
    rfl
  case twoSteps =>
    obtain rfl := eq_done_of_exec_exec rfl hf rfl hr hxor hsp
    obtain rfl := eq_done_of_exec rfl hf hr hround
    simp [done, roundWith]
  case threeSteps =>
    obtain rfl := eq_done_of_exec_exec rfl hf rfl hr hxor hsub
    obtain rfl := eq_done_of_exec rfl (by simp [hf]) (by simp [done, hr]) hperm
    obtain rfl := eq_done_of_exec rfl hf hr hround
    simp [done, roundWith, ht.readSptab hr, spf]

/-- Settles O38: `RNDK` with its key loaded writes the `SPTAB` entry of the XOR with that key; an unloaded key stops
it. -/
theorem rndkUsesALoadedKey : Obligations.RndkUsesALoadedKey := by
  refine ⟨packR_dss 0x23, wordsOf_of_wf fun i hw hi => ?words, fun s rd rs1 k hf hr hk hv => ?value,
    fun s rd rs1 k hf hr hk hv => .of_stops hf (.roundKey rd rs1 k rfl (decide_eq_true hk) hr hv),
    fun s rd rs1 k hf hr hk => .of_stops hf (.notReady (decide_eq_true hk) rfl hr),
    by decide, by decide, by decide, by decide⟩
  case words =>
    cases i with
    | rndk rd rs1 k => exact ⟨rd, rs1, k, rfl, of_decide_eq_true hw⟩
    | _ => cases hi
  case value =>
    exact ⟨_, .of_writeX (exec_of_keysFit (by simp) (decide_eq_true hk) hf (fun _ => hr) hv), rfl,
      fun ht => ht.readSptab hr _⟩

/-- Settles O39: `ENC` with all keys loaded writes the encryption of its source by lookups, in a ready unit by the
combined transform itself; an unloaded key stops it. -/
theorem encEncryptsWithTheKeySet : Obligations.EncEncryptsWithTheKeySet := by
  refine ⟨packR_ds 0x24, wordsOf_of_opcode fun i hi => ?words, fun s rd rs1 hf hr hv => ?value,
    fun s rd rs1 n hf hr hn hv => ?unloaded, fun s rd rs1 hf hr => .of_stops hf (.notReady rfl rfl hr),
    by decide, encWith_ref_zeroKeys, rounds_ref_zeroKeys, encWith_ref_refKeys, rounds_ref_refKeys⟩
  case words =>
    cases i with
    | enc rd rs1 => exact ⟨rd, rs1, rfl⟩
    | _ => cases hi
  case value =>
    refine ⟨_, .of_writeX (exec_of_keysFit (by simp) rfl hf (fun _ => hr) hv), rfl, fun ht => ?_⟩
    rw [ht.readSptab_eq hr]
    exact ⟨rfl, encWith_zeroKeys (spf s.params) s.readKey (s.readX rs1)⟩
  case unloaded =>
    have hset : s.allKeysValid = false := by
      rw [Bool.eq_false_iff, ne_eq, State.allKeysValid_iff]
      intro hall
      simp [hall n hn] at hv
    exact .of_stops hf (.keySet rd rs1 rfl hr hset)

/-- Settles O40: `ISP` writes `ISPf` of its source from the parameters, and undoes the table lookup of `SP` in a ready
unit. -/
theorem ispInvertsSp : Obligations.IspInvertsSp := by
  refine ⟨packR_ds 0x25, wordsOf_of_opcode fun i hi => ?words,
    fun s rd rs1 hf hr => .of_writeX (exec_ready rfl hf hr),
    fun s t u rd q rs1 hf hr ht hrun => ?restores,
    fun s rd rs1 hf => faults_notReady rfl hf rfl, by decide, by decide⟩
  case words =>
    cases i with
    | isp rd rs1 => exact ⟨rd, rs1, rfl⟩
    | _ => cases hi
  case restores =>
    have hvalid := ht.configValid hr
    rcases hrun with ⟨hsp, hisp⟩ | ⟨hisp, hsp⟩
    · obtain rfl := eq_done_of_exec_exec rfl hf rfl hr hsp hisp
      simp [done, ht.readSptab hr, ispf_spf hvalid]
    · obtain rfl := eq_done_of_exec_exec rfl hf rfl hr hisp hsp
      simp [done, ht.readSptab hr, spf_ispf hvalid]

/-- Settles O41: `DECR` writes `DecRound` of its sources, which undoes `ROUND` while the key register still holds the
key. -/
theorem decrUndoesRound : Obligations.DecrUndoesRound := by
  refine ⟨packR_dss 0x26, wordsOf_of_opcode fun i hi => ?words, fun s rd rs1 rs2 hf hr => ?value,
    fun s t u rd q rs1 rs2 hf hr ht hq hround hdecr => ?restores,
    fun s rd rs1 rs2 hf => faults_notReady rfl hf rfl, by decide, by decide⟩
  case words =>
    cases i with
    | decr rd rs1 rs2 => exact ⟨rd, rs1, rs2, rfl⟩
    | _ => cases hi
  case value =>
    refine ⟨_, .of_writeX (exec_ready rfl hf hr), rfl, fun hzero => ?_⟩
    have hkey : s.readX rs2 = 0#16 := hzero
    rw [decRound, hkey, BitVec.xor_zero]
  case restores =>
    obtain rfl := eq_done_of_exec_exec rfl hf rfl hr hround hdecr
    simp [done, s.readX_writeX_other _ hq.symm, ht.readSptab_eq hr, decRound_roundWith (ht.configValid hr)]

end Sys2Proof.Machine

/-! SUPPORT. Sums over all blocks: the sign of a parity and the characters of GF(2)^16 (R71, R99), and sums that
factor by nibble (R73). -/

namespace Sys2Proof.Machine

/-! ## Signs -/

/-- The `+1` or `-1` a parity bit counts for in R99. -/
def paritySign (b : Bool) : Int := if b then -1 else 1

@[simp] theorem paritySign_false : paritySign false = 1 := rfl
@[simp] theorem paritySign_true : paritySign true = -1 := rfl

theorem paritySign_xor (a b : Bool) : paritySign (a ^^ b) = paritySign a * paritySign b := by
  cases a <;> cases b <;> rfl

/-! ## The characters of the blocks -/

theorem card_bitVec (n : Nat) : Fintype.card (BitVec n) = 2 ^ n := by
  rw [← FinEnum.card_eq_fintypeCard, FinEnum.card_bitVec]

/-- Adding a fixed block is a permutation of the blocks. -/
theorem sum_xor_right (u : Block) (f : Block → Int) : ∑ t, f (t ^^^ u) = ∑ t, f t :=
  Equiv.sum_comp (Function.Involutive.toPerm (· ^^^ u) fun t => by simp) f

theorem exists_dot_eq_true {m : Block} (hm : m ≠ 0#16) : ∃ v, dot m v = true := by
  obtain ⟨i, hi, hbit⟩ : ∃ i < 16, m.getLsbD i = true := by
    by_contra hno
    push Not at hno
    exact hm (BitVec.eq_of_getLsbD_eq fun i hi => by simpa using hno i hi)
  have hpar : ∀ i < 16, par (BitVec.twoPow 16 i) = true := by decide
  exact ⟨BitVec.twoPow 16 i, by rw [dot, BitVec.and_twoPow, if_pos hbit, hpar i hi]⟩

/-- The signs of a character sum to 0, but for the character of the zero mask: a block at which the character is -1
pairs the blocks with opposite signs. -/
theorem sum_paritySign_dot (m : Block) : ∑ v, paritySign (dot m v) = if m = 0#16 then 65536 else 0 := by
  split
  next hm => simp [hm, card_bitVec]
  next hm =>
    obtain ⟨u, hu⟩ := exists_dot_eq_true hm
    have hshift := sum_xor_right u fun v => paritySign (dot m v)
    simp only [dot_xor, paritySign_xor, hu, paritySign_true, ← Finset.sum_mul] at hshift
    omega

/-! ## Sums that factor by nibble -/

/-- The blocks are the quadruples of nibbles. -/
theorem nibs_bijective : Function.Bijective fun (t : Block) (n : Fin 4) => nib t n := by
  rw [Fintype.bijective_iff_injective_and_card]
  exact ⟨fun u v h => block_ext_nib fun n hn => congrFun h ⟨n, hn⟩, by simp [card_bitVec]⟩

/-- A sum of products with one factor for each nibble is the product of the sums over each nibble. -/
theorem sum_prod_nib {R : Type} [CommSemiring R] (g : Fin 4 → Nibble → R) :
    ∑ t : Block, ∏ n, g n (nib t n) = ∏ n, ∑ u, g n u := by
  rw [Fintype.prod_sum]
  exact nibs_bijective.sum_comp fun x => ∏ n, g n (x n)

end Sys2Proof.Machine

/-! SUPPORT. The correlation sum and the difference count of any transform, and of the combined transform of a valid
configuration (R99, R100, R102, R103). -/

namespace Sys2Proof.Machine

/-! ## The correlation sum -/

section Correlation

variable (sp : Block → Block) (a b : Block)

/-- The correlation sum adds the signs of the disagreements (R99). -/
theorem lc_eq_sum : lc sp par a b = ∑ t, paritySign (dot a t ^^ dot b (sp t)) := by
  have hsign : ∀ c : Bool, paritySign c = 1 - 2 * if c = true then 1 else 0 := by decide
  simp only [hsign, Finset.sum_sub_distrib, ← Finset.mul_sum, Finset.sum_boole]
  rw [lc, countP_blocks, Finset.sum_const, Finset.card_univ, card_bitVec]
  rfl

theorem lc_bounds (pa : Block → Bool) : -65536 ≤ lc sp pa a b ∧ lc sp pa a b ≤ 65536 := by
  have hcount := countP_blocks_le (disagrees sp pa a b)
  rw [lc]
  omega

theorem lc_even (pa : Block → Bool) : lc sp pa a b % 2 = 0 := by
  rw [lc]
  omega

theorem lc_zero_right : lc sp par a 0#16 = if a = 0#16 then 65536 else 0 := by
  simp [lc_eq_sum, sum_paritySign_dot]

variable {sp} (hbij : Function.Bijective sp)
include hbij

/-- A bijection only reorders the blocks. -/
theorem lc_zero_left : lc sp par 0#16 b = if b = 0#16 then 65536 else 0 := by
  simp only [lc_eq_sum, dot_zero_left, Bool.false_xor]
  rw [hbij.sum_comp fun v => paritySign (dot b v), sum_paritySign_dot]

/-- Parseval's identity: of the products of two signs, summed over all output masks, only those of a block with itself
are left. -/
theorem sum_lc_sq : ∑ b, lc sp par a b ^ 2 = 2 ^ 32 := by
  have hpair : ∀ b t u : Block, paritySign (dot a t ^^ dot b (sp t)) * paritySign (dot a u ^^ dot b (sp u)) =
      paritySign (dot a t ^^ dot a u) * paritySign (dot b (sp t ^^^ sp u)) := by
    intro b t u
    rw [dot_xor, ← paritySign_xor, ← paritySign_xor]
    congr 1
    rw [Bool.xor_assoc, Bool.xor_assoc, Bool.xor_left_comm (dot b (sp t))]
  have hsame : ∀ t u : Block, sp t ^^^ sp u = 0#16 ↔ t = u := by
    intro t u
    rw [BitVec.xor_eq_zero_iff, hbij.injective.eq_iff]
  calc ∑ b, lc sp par a b ^ 2
      = ∑ b, ∑ t, ∑ u, paritySign (dot a t ^^ dot a u) * paritySign (dot b (sp t ^^^ sp u)) := by
        simp only [lc_eq_sum, sq, Finset.sum_mul_sum, hpair]
    _ = ∑ t, ∑ u, paritySign (dot a t ^^ dot a u) * ∑ b, paritySign (dot b (sp t ^^^ sp u)) := by
        rw [Finset.sum_comm]
        refine Finset.sum_congr rfl fun t _ => ?_
        rw [Finset.sum_comm]
        simp only [Finset.mul_sum]
    _ = ∑ t : Block, 65536 := by
        simp only [dot_comm _ (_ ^^^ _), sum_paritySign_dot, hsame, mul_ite, mul_zero, Finset.sum_ite_eq,
          Finset.mem_univ, if_true, Bool.xor_self, paritySign_false, one_mul]
    _ = 2 ^ 32 := by simp [card_bitVec]

/-- The squares of a row do not all vanish, so the row is not empty (R100 (d)). -/
theorem exists_lc_ne_zero : ∃ b, lc sp par a b ≠ 0 := by
  by_contra hno
  push Not at hno
  simpa [hno] using sum_lc_sq a hbij

end Correlation

/-! ## The difference count -/

section Difference

variable (sp : Block → Block) (a b : Block)

theorem dc_eq_card : dc sp a b = (Finset.univ.filter fun t : Block => sp t ^^^ sp (t ^^^ a) = b).card := by
  simp only [dc, countP_blocks, beq_iff_eq]

theorem dc_le : dc sp a b ≤ 65536 := countP_blocks_le _

/-- Every block falls in the bin of one output difference. -/
theorem sum_dc : ∑ b, dc sp a b = 65536 := by
  simp only [dc_eq_card]
  rw [← Finset.card_eq_sum_card_fiberwise fun _ _ => Finset.mem_coe.2 (Finset.mem_univ _)]
  simp [card_bitVec]

theorem exists_dc_ne_zero : ∃ b, dc sp a b ≠ 0 := by
  by_contra hno
  push Not at hno
  simpa [hno] using sum_dc sp a

theorem dc_zero_left : dc sp 0#16 b = if b = 0#16 then 65536 else 0 := by
  rw [dc_eq_card]
  split
  next hb => subst hb; simp [card_bitVec]
  next hb => simp [Ne.symm hb]

variable {a}

/-- `t` and `t ^^^ a` fall in the same bin (R103 (d)). -/
theorem dc_even (ha : a ≠ 0#16) : dc sp a b % 2 = 0 := by
  rw [dc_eq_card, ← Nat.even_iff, ← ZMod.natCast_eq_zero_iff_even, Finset.card_eq_sum_ones, Nat.cast_sum]
  refine Finset.sum_involution (fun t _ => t ^^^ a) (fun t _ => by decide) (fun t _ _ hfixed => ha ?_)
    (fun t ht => ?_) (fun t _ => ?_)
  · simpa using hfixed
  · simpa [BitVec.xor_assoc, BitVec.xor_comm (sp (t ^^^ a))] using ht
  · simp

variable {sp}

/-- An injective transform gives two blocks two values. -/
theorem dc_zero_right (hinj : Function.Injective sp) (ha : a ≠ 0#16) : dc sp a 0#16 = 0 := by
  rw [dc_eq_card, Finset.card_eq_zero, Finset.filter_eq_empty_iff]
  intro t _ hzero
  have hshift : t = t ^^^ a := hinj (BitVec.xor_eq_zero_iff.1 hzero)
  exact ha (by simpa using hshift.symm)

end Difference

/-! ## The obligations about the two counts -/

/-- Settles O53: the summand is the disagreement of the two parities, which a ready unit looks up. -/
theorem correlationSumCountsAllInputs : Obligations.CorrelationSumCountsAllInputs := by
  refine fun p a b => ⟨?count, ?signs, fun s t hr ht hp => ?lookup⟩
  case count => rw [lc, countP_blocks]; rfl
  case signs =>
    have hagree : ∀ c d : Bool, paritySign (c ^^ d) = if c = d then 1 else -1 := by decide
    simp only [lc_eq_sum, hagree]
  case lookup =>
    subst hp
    simp only [ht.readPartab hr, ht.readSptab hr, par_xor]
    exact ⟨rfl, rfl⟩

/-- Settles O54: `SPf` is a bijection of the blocks under valid parameters. -/
theorem correlationSumFacts : Obligations.CorrelationSumFacts := by
  intro p hc
  have hbij := spf_bijective hc
  refine ⟨fun a b => ?range, lc_zero_left 0 hbij, fun b hb => ?zeroInput, fun a ha => ?zeroOutput,
    fun a => ⟨sum_lc_sq a hbij, exists_lc_ne_zero a hbij⟩, fun a b => ?width⟩
  case range =>
    obtain ⟨hlow, hhigh⟩ := lc_bounds (spf p) a b par
    exact ⟨hlow, hhigh, lc_even (spf p) a b par⟩
  case zeroInput => exact (lc_zero_left b hbij).trans (if_neg hb)
  case zeroOutput => exact (lc_zero_right (spf p) a).trans (if_neg ha)
  case width =>
    have hrange := lc_bounds (spf p) a b par
    omega

/-- Settles O55: the counts of one input difference part the blocks, and `SPf` is injective under valid parameters. -/
theorem differenceCountFacts : Obligations.DifferenceCountFacts := by
  refine ⟨fun p a b => ⟨dc_eq_card (spf p) a b, fun s hr ht hp => ?lookup⟩,
    fun p hc => ⟨dc_le (spf p), fun a => ⟨sum_dc (spf p) a, exists_dc_ne_zero (spf p) a⟩, dc_zero_left (spf p) 0,
      fun b hb => (dc_zero_left (spf p) b).trans (if_neg hb), fun a ha => dc_zero_right (spf_bijective hc).injective ha,
      fun a b ha => dc_even (spf p) b ha⟩⟩
  case lookup =>
    subst hp
    rw [ht.readSptab_eq hr, dc_eq_card]

end Sys2Proof.Machine

/-! SUPPORT. Under valid parameters an entry of either table is the product of four nibble entries
(95_test_vectors.md 4.3 and 5.3), since the bit permutation moves to the output mask or difference. -/

namespace Sys2Proof.Machine

/-! ## Inner products by nibble -/

/-- The parity of sixteen bits is that of the parities of four nibbles. -/
theorem dot_eq_dot4 (m v : Block) :
    dot m v = (dot4 (nib m 0) (nib v 0) ^^ dot4 (nib m 1) (nib v 1) ^^ dot4 (nib m 2) (nib v 2) ^^
      dot4 (nib m 3) (nib v 3)) := by
  simp only [dot, par, parUpTo, dot4, BitVec.getLsbD_and, getLsbD_nib, Nat.reduceLT, Nat.reduceMul, Nat.reduceAdd,
    Bool.false_xor, Bool.xor_assoc]

theorem paritySign_dot (m v : Block) :
    paritySign (dot m v) = ∏ n : Fin 4, paritySign (dot4 (nib m n) (nib v n)) := by
  simp only [dot_eq_dot4, paritySign_xor, Fin.prod_univ_four]
  rfl

theorem nib_xor (u v : Block) (n : Nat) : nib (u ^^^ v) n = nib u n ^^^ nib v n := by
  simp [nib, BitVec.extractLsb'_xor]

theorem block_eq_iff_nib {u v : Block} : u = v ↔ ∀ n : Fin 4, nib u n = nib v n :=
  ⟨fun e _ => by rw [e], fun e => block_ext_nib fun n hn => e ⟨n, hn⟩⟩

/-! ## Nibble sums -/

/-- A nibble is a number below 16, over which `lat` and `ddt` count. -/
theorem ofFin_bijective : Function.Bijective fun u : Fin 16 => (BitVec.ofFin u : Nibble) :=
  ⟨fun _ _ e => congrArg BitVec.toFin e, fun v => ⟨v.toFin, rfl⟩⟩

/-- `lat` adds signs as `LC` does. -/
theorem lat_eq_sum (c : Params) (p q : Nibble) :
    lat c p q = ∑ u : Nibble, paritySign (dot4 p u ^^ dot4 q (sboxAt c u)) := by
  have hagree : ∀ d e : Bool, (if d = e then 1 else -1) = paritySign (d ^^ e) := by decide
  simp only [lat, hagree]
  exact ofFin_bijective.sum_comp fun u : Nibble => paritySign (dot4 p u ^^ dot4 q (sboxAt c u))

theorem ddt_eq_sum (c : Params) (p q : Nibble) :
    ddt c p q = ∑ u : Nibble, if sboxAt c u ^^^ sboxAt c (u ^^^ p) = q then 1 else 0 := by
  rw [ddt, Finset.card_filter]
  exact ofFin_bijective.sum_comp fun u : Nibble => if sboxAt c u ^^^ sboxAt c (u ^^^ p) = q then 1 else 0

/-! ## The bit permutation on the output side -/

section Factors

variable {p : Params} (h : ConfigValid p)
include h

theorem p16_and (a b : Block) : p16 p (a &&& b) = p16 p a &&& p16 p b :=
  block_ext_bit fun i => by simp only [getLsbD_p16 h, BitVec.getLsbD_and]

theorem par_p16 (v : Block) : par (p16 p v) = par v := by
  have htoNat : ∀ c d : Bool, c.toNat = d.toNat → c = d := by decide
  exact htoNat _ _ (by rw [toNat_par, toNat_par, card_bits_p16 h])

/-- The permutation, an involution, is its own transpose. -/
theorem dot_p16 (m v : Block) : dot m (p16 p v) = dot (p16 p m) v := by
  rw [dot, ← par_p16 h, p16_and h, p16_p16 h, ← dot]

theorem p16_eq_iff (u v : Block) : p16 p u = v ↔ u = p16 p v :=
  ⟨fun e => by rw [← e, p16_p16 h], fun e => by rw [e, p16_p16 h]⟩

/-- A correlation sum is a product of four nibble sums. -/
theorem lc_eq_prod_lat (a b : Block) :
    lc (spf p) par a b = ∏ n : Fin 4, lat p (nib a n) (nib (p16 p b) n) := by
  calc lc (spf p) par a b
      = ∑ t, ∏ n : Fin 4,
          paritySign (dot4 (nib a n) (nib t n) ^^ dot4 (nib (p16 p b) n) (sboxAt p (nib t n))) := by
        simp only [lc_eq_sum, spf, dot_p16 h, paritySign_xor, paritySign_dot, Finset.prod_mul_distrib,
          nib_s16 p _ (Fin.isLt _)]
    _ = ∏ n : Fin 4, lat p (nib a n) (nib (p16 p b) n) := by
        simp only [lat_eq_sum, ← sum_prod_nib]

/-- An output difference of the combined transform is four output differences of the S-box, moved. -/
theorem spf_diff_iff (a b t : Block) :
    spf p t ^^^ spf p (t ^^^ a) = b ↔
      ∀ n : Fin 4, sboxAt p (nib t n) ^^^ sboxAt p (nib t n ^^^ nib a n) = nib (p16 p b) n := by
  rw [spf, spf, ← p16_xor h, p16_eq_iff h, block_eq_iff_nib]
  simp only [nib_xor, nib_s16 p _ (Fin.isLt _)]

/-- A difference count is a product of four nibble counts. -/
theorem dc_eq_prod_ddt (a b : Block) :
    dc (spf p) a b = ∏ n : Fin 4, ddt p (nib a n) (nib (p16 p b) n) := by
  calc dc (spf p) a b
      = ∑ t, ∏ n : Fin 4,
          if sboxAt p (nib t n) ^^^ sboxAt p (nib t n ^^^ nib a n) = nib (p16 p b) n then 1 else 0 := by
        simp only [dc_eq_card, Finset.card_filter, spf_diff_iff h, Finset.prod_boole, Finset.mem_univ, true_imp_iff]
    _ = ∏ n : Fin 4, ddt p (nib a n) (nib (p16 p b) n) := by
        simp only [ddt_eq_sum, ← sum_prod_nib]

end Factors

/-! ## The entries of the examples of R110 and R111 -/

theorem refParams_valid : ConfigValid refParams := by decide

theorem lc_ref_example : lc (spf refParams) par 0x000B 0x0100 = 32768 := by
  have hmask : p16 refParams 0x0100 = 0x0004 := by decide
  rw [lc_eq_prod_lat refParams_valid, hmask]
  decide

theorem dc_ref_example : dc (spf refParams) 0x000B 0x0010 = 32768 := by
  have hdiff : p16 refParams 0x0010 = 0x0002 := by decide
  rw [dc_eq_prod_ddt refParams_valid, hdiff]
  decide

end Sys2Proof.Machine

/-! SUPPORT. The 32-bit values of the entries (R106, R107) and the rows of the input mask and the input difference 0
(R108, R109). -/

namespace Sys2Proof.Machine

/-! ## Raw values (R106) -/

/-- A linear entry fits a signed word. -/
theorem toInt_valueOf_linear_raw {c : Int} (hlow : -65536 ≤ c) (hhigh : c ≤ 65536) :
    (valueOf .linear .raw c).toInt = c := by
  rw [valueOf, BitVec.toInt_ofInt, Int.bmod_eq_of_le (by omega) (by omega)]

theorem toNat_valueOf_differential_raw {c : Nat} (hc : c ≤ 65536) :
    (valueOf .differential .raw c).toNat = c := by
  rw [valueOf, Int.toNat_natCast, BitVec.toNat_ofNat, Nat.mod_eq_of_lt (by omega)]

/-- An entry that is 0 has the value 0 in either format. -/
theorem valueOf_zero (v : Variant) (f : Fmt) : valueOf v f 0 = 0 := by
  cases v <;> cases f <;> rfl

/-! ## Floating values of 24 bits (R107) -/

section Exact

variable {num : Nat} (hnum : num < 2 ^ 24)
include hnum

/-- A numerator of at most 24 bits is a significand with bits to spare. -/
theorem f32_significand (h0 : num ≠ 0) :
    num.log2 ≤ 23 ∧ num * 2 ^ 23 = num * 2 ^ (23 - num.log2) * 2 ^ num.log2 := by
  have hlog : num.log2 < 24 := (Nat.log2_lt h0).2 hnum
  refine ⟨by omega, ?_⟩
  rw [Nat.mul_assoc, ← Nat.pow_add, Nat.sub_add_cancel (by omega)]

/-- Nothing is left of such a numerator to round. -/
theorem f32Rounded_eq (h0 : num ≠ 0) : f32Rounded num = num * 2 ^ (23 - num.log2) := by
  obtain ⟨_, hsplit⟩ := f32_significand hnum h0
  have hrem : f32Rem num = 0 := by rw [f32Rem, hsplit, Nat.mul_mod_left]
  have hdown : f32RoundsUp num = false := by simp [f32RoundsUp, hrem, (Nat.two_pow_pos _).ne]
  rw [f32Rounded, hdown, if_neg Bool.false_ne_true, f32Floor, hsplit, Nat.mul_div_cancel _ (Nat.two_pow_pos _)]

theorem f32Rounded_bounds (h0 : num ≠ 0) : 2 ^ 23 ≤ f32Rounded num ∧ f32Rounded num < 2 ^ 24 := by
  obtain ⟨hlog, _⟩ := f32_significand hnum h0
  rw [f32Rounded_eq hnum h0]
  constructor
  · calc 2 ^ 23 = 2 ^ num.log2 * 2 ^ (23 - num.log2) := by rw [← Nat.pow_add]; congr 1; omega
      _ ≤ num * 2 ^ (23 - num.log2) := Nat.mul_le_mul_right _ (Nat.log2_self_le h0)
  · calc num * 2 ^ (23 - num.log2) < 2 ^ (num.log2 + 1) * 2 ^ (23 - num.log2) :=
          Nat.mul_lt_mul_of_pos_right Nat.lt_log2_self (Nat.two_pow_pos _)
      _ = 2 ^ 24 := by rw [← Nat.pow_add]; congr 1; omega

/-- The exponent field and the fraction field of an exact probability. -/
theorem toNat_f32 {k : Nat} (hk : k ≤ 126) (h0 : num ≠ 0) :
    (f32 num k).toNat = 2 ^ 23 * (num.log2 + 127 - k) + (f32Rounded num - 2 ^ 23) := by
  obtain ⟨hlog, _⟩ := f32_significand hnum h0
  obtain ⟨hlow, hhigh⟩ := f32Rounded_bounds hnum h0
  have hfrac : (BitVec.ofNat 32 (f32Rounded num - 2 ^ 23)).toNat = f32Rounded num - 2 ^ 23 := by
    rw [BitVec.toNat_ofNat]
    omega
  have hexp : (BitVec.ofNat 32 (num.log2 + 127 - k) <<< 23).toNat = 2 ^ 23 * (num.log2 + 127 - k) := by
    rw [BitVec.toNat_shiftLeft, BitVec.toNat_ofNat, Nat.shiftLeft_eq]
    omega
  rw [f32, if_neg h0, if_neg (by omega), BitVec.toNat_or, hexp, hfrac, Nat.two_pow_add_eq_or_of_lt (by omega)]

/-- A probability whose numerator has at most 24 bits is represented exactly. -/
theorem f32Value_f32 {k : Nat} (hk : k ≤ 126) : f32Value (f32 num k) = num / 2 ^ k := by
  by_cases h0 : num = 0
  · subst h0
    simp [f32, f32Value]
  obtain ⟨hlog, _⟩ := f32_significand hnum h0
  obtain ⟨hlow, hhigh⟩ := f32Rounded_bounds hnum h0
  have hword := toNat_f32 hnum hk h0
  have hexp : (f32 num k).toNat / 2 ^ 23 = num.log2 + 127 - k := by omega
  have hfrac : (f32 num k).toNat % 2 ^ 23 = f32Rounded num - 2 ^ 23 := by omega
  have hsig : (2 ^ 23 + (f32Rounded num - 2 ^ 23 : Nat) : ℚ) = num * 2 ^ (23 - num.log2) := by
    rw [Nat.cast_sub hlow, f32Rounded_eq hnum h0]
    push_cast
    ring
  rw [f32Value, hexp, hfrac, if_neg (by omega), hsig, ← zpow_natCast, ← zpow_natCast, mul_assoc,
    ← zpow_add₀ two_ne_zero, div_eq_mul_inv, ← zpow_neg]
  congr 2
  omega

end Exact

/-! ## The row of the input 0 -/

/-- With input mask or input difference 0 only the entry of output 0 is not 0 (R100 (b), R103 (b)). -/
theorem entryOf_zero_left {p : Params} (h : ConfigValid p) (v : Variant) (b : Block) :
    entryOf v (spf p) par 0#16 b = if b = 0#16 then 65536 else 0 := by
  cases v with
  | linear => exact lc_zero_left b (spf_bijective h)
  | differential => rw [entryOf, dc_zero_left]; split <;> rfl

/-- The blocks begin with block 0, which does not come again. -/
theorem blocks_eq_cons : ∃ rest, blocks = 0#16 :: rest ∧ ∀ b ∈ rest, b ≠ 0#16 := by
  have hcons : blocks = 0#16 :: ((List.range 65535).map Nat.succ).map (BitVec.ofNat 16) := by
    rw [blocks_eq, List.range_succ_eq_map, List.map_cons]
  obtain ⟨hnotMem, _⟩ := List.nodup_cons.1 (hcons ▸ nodup_blocks)
  exact ⟨_, hcons, fun b hb e => hnotMem (e ▸ hb)⟩

theorem row_zero {p : Params} (h : ConfigValid p) (v : Variant) (f : Fmt) :
    row v f (spf p) par 0#16 = [rowHeader v f 0#16, 0, valueOf v f 65536, 0xFFFFFFFF] := by
  obtain ⟨rest, hblocks, hrest⟩ := blocks_eq_cons
  have hnil : rest.flatMap (fun b => entryWords v f b (entryOf v (spf p) par 0#16 b)) = [] :=
    List.flatMap_eq_nil_iff.2 fun b hb => by rw [entryOf_zero_left h, if_neg (hrest b hb), entryWords, if_pos rfl]
  rw [row, hblocks, List.flatMap_cons, hnil, entryOf_zero_left h, if_pos rfl, entryWords, if_neg (by decide)]
  rfl

theorem take_four_table {p : Params} (h : ConfigValid p) (v : Variant) (f : Fmt) :
    (table v f (spf p) par).take 4 = [rowHeader v f 0#16, 0, valueOf v f 65536, 0xFFFFFFFF] := by
  obtain ⟨rest, hblocks, _⟩ := blocks_eq_cons
  rw [table, hblocks, List.flatMap_cons, row_zero h]
  rfl

/-- A table is its rows with the number of the input mask or difference ascending (R109). -/
theorem table_eq_flatMap_range (v : Variant) (f : Fmt) (sp : Block → Block) (pa : Block → Bool) :
    table v f sp pa = (List.range 65536).flatMap fun a => row v f sp pa (BitVec.ofNat 16 a) := by
  rw [table, blocks_eq, List.flatMap_map]

end Sys2Proof.Machine

/-! SUPPORT. The probability table generator: `LENT`, `DENT`, `LTAB`, `DTAB` (R110, R111, R114, R115). -/

namespace Sys2Proof

/-- A format bit stands in bit 0 of a word (R54). -/
theorem place_bit (f : Fmt) : place 32 f.bit 0 = f.bit.setWidth 32 := BitVec.shiftLeft_zero _

/-- The word of a command with operands `rs1, rs2` and a format. -/
theorem packR_ssf (op : BitVec 8) (rs1 rs2 : DReg) (f : Fmt) :
    packR op 0 (fieldOf rs1) (fieldOf rs2) f.bit =
      place 32 op 24 ||| Machine.at32 rs1 16 ||| Machine.at32 rs2 12 ||| f.bit.setWidth 32 := by
  simp [packR, place_fieldOf, place_bit]

/-- The word of a command with a format alone. -/
theorem packR_f (op : BitVec 8) (f : Fmt) : packR op 0 0 0 f.bit = place 32 op 24 ||| f.bit.setWidth 32 := by
  simp [packR, place_bit]

end Sys2Proof

namespace Sys2Proof.Machine

/-! ## Through the tables of a ready unit -/

section Frozen

variable {s : State} (ht : TablesFrozen s) (hr : s.ready = true)
include ht hr

/-- In a ready unit the parity table is parity, as a function. -/
theorem TablesFrozen.readPartab_eq : s.readPartab = par := funext (ht.readPartab hr)

theorem TablesFrozen.entryValue_eq (v : Variant) (f : Fmt) (a b : Block) :
    s.entryValue v f a b = valueOf v f (entryOf v (spf s.params) par a b) := by
  rw [State.entryValue, ht.readSptab_eq hr, ht.readPartab_eq hr]

theorem TablesFrozen.tableWords_eq (v : Variant) (f : Fmt) :
    s.tableWords v f = table v f (spf s.params) par := by
  rw [State.tableWords, ht.readSptab_eq hr, ht.readPartab_eq hr]

/-- A zero entry has the value 0, and the entry of two zero blocks is 65536 (R110, R111). -/
theorem TablesFrozen.entryValue_corners (v : Variant) (f : Fmt) (a b : Block) :
    (entryOf v (spf s.params) par a b = 0 → s.entryValue v f a b = 0) ∧
      (a = 0 → b = 0 → s.entryValue v f a b = match f with | .raw => 0x00010000 | .prob => 0x3F800000) := by
  rw [ht.entryValue_eq hr]
  refine ⟨fun hzero => by rw [hzero, valueOf_zero], ?_⟩
  rintro rfl rfl
  have hentry : entryOf v (spf s.params) par 0 0 = 65536 := entryOf_zero_left (ht.configValid hr) v 0
  rw [hentry]
  cases v <;> cases f <;> decide

end Frozen

/-! ## One entry -/

theorem OnlyAcc.setAcc (s : State) (w : Word) : OnlyAcc s (s.setAcc w) := rfl

section Entry

variable {s : State} (hf : s.fault = false) (hr : s.ready = true) (rs1 rs2 : DReg) (f : Fmt)
include hf hr

theorem exec_lent :
    exec (.lent rs1 rs2 f) s = .next (s.setAcc (s.entryValue .linear f (s.readX rs1) (s.readX rs2))) :=
  exec_ready rfl hf hr

theorem exec_dent :
    exec (.dent rs1 rs2 f) s = .next (s.setAcc (s.entryValue .differential f (s.readX rs1) (s.readX rs2))) :=
  exec_ready rfl hf hr

end Entry

/-- Settles O42: `LENT` writes the value of its entry to `ACC` alone, which in a ready unit is that of the correlation
sum, at most 65536 in size. -/
theorem lentGivesOneLinearEntry : Obligations.LentGivesOneLinearEntry := by
  refine ⟨packR_ssf 0x30, wordsOf_of_opcode fun i hi => ?words,
    fun s rs1 rs2 hf hr ht => ⟨_, exec_lent hf hr rs1 rs2 _, .setAcc s _, ?raw⟩,
    fun s rs1 rs2 hf hr ht => ⟨_, exec_lent hf hr rs1 rs2 _, .setAcc s _, ?prob⟩,
    fun s t rs1 rs2 f hf hr ht hrun => ?corners,
    fun s rs1 rs2 f hf => faults_notReady rfl hf rfl, by decide, lc_ref_example, by decide⟩
  case words =>
    cases i with
    | lent rs1 rs2 f => exact ⟨rs1, rs2, f, rfl⟩
    | _ => cases hi
  case raw =>
    obtain ⟨hlow, hhigh⟩ := lc_bounds (spf s.params) (s.readX rs1) (s.readX rs2) par
    rw [State.setAcc_acc, ht.entryValue_eq hr]
    exact toInt_valueOf_linear_raw hlow hhigh
  case prob =>
    rw [State.setAcc_acc, ht.entryValue_eq hr, valueOf, entryOf, ← Int.natAbs_mul_self, Int.toNat_natCast, ← sq]
  case corners =>
    obtain rfl := eq_done_of_exec rfl hf hr hrun
    exact ht.entryValue_corners hr .linear f _ _

/-- Settles O43: `DENT` writes the value of its entry to `ACC` alone, which in a ready unit is that of the difference
count, at most 65536 and so exact in binary32. -/
theorem dentGivesOneDifferentialEntry : Obligations.DentGivesOneDifferentialEntry := by
  refine ⟨packR_ssf 0x31, wordsOf_of_opcode fun i hi => ?words,
    fun s rs1 rs2 hf hr ht => ⟨_, exec_dent hf hr rs1 rs2 _, .setAcc s _, ?raw⟩,
    fun s rs1 rs2 hf hr ht => ⟨_, exec_dent hf hr rs1 rs2 _, .setAcc s _, ?prob⟩,
    fun s t rs1 rs2 f hf hr ht hrun => ?corners,
    fun s rs1 rs2 f hf => faults_notReady rfl hf rfl, by decide, dc_ref_example, by decide⟩
  case words =>
    cases i with
    | dent rs1 rs2 f => exact ⟨rs1, rs2, f, rfl⟩
    | _ => cases hi
  case raw =>
    rw [State.setAcc_acc, ht.entryValue_eq hr]
    exact toNat_valueOf_differential_raw (dc_le (spf s.params) _ _)
  case prob =>
    have hcount := dc_le (spf s.params) (s.readX rs1) (s.readX rs2)
    rw [State.setAcc_acc, ht.entryValue_eq hr, valueOf, entryOf, Int.toNat_natCast]
    exact f32Value_f32 (by omega) (by decide)
  case corners =>
    obtain rfl := eq_done_of_exec rfl hf hr hrun
    obtain ⟨hzero, hcorner⟩ := ht.entryValue_corners hr .differential f (s.readX rs1) (s.readX rs2)
    exact ⟨fun hcount => hzero (congrArg _ hcount), hcorner⟩

/-! ## A whole table -/

/-- Settles O46: `LTAB` emits the linear table alone, whose first row is that of the zero mask. -/
theorem ltabStreamsTheLinearTable : Obligations.LtabStreamsTheLinearTable := by
  refine ⟨packR_f 0x34, wordsOf_of_opcode fun i hi => ?words,
    fun s f hf hr ht => ⟨_, _, exec_ready rfl hf hr, .emit s _, ?rows, ?first⟩,
    fun s f hf => faults_notReady rfl hf rfl⟩
  case words =>
    cases i with
    | ltab f => exact ⟨f, rfl⟩
    | _ => cases hi
  case rows => rw [ht.tableWords_eq hr, table_eq_flatMap_range]
  case first =>
    rw [ht.tableWords_eq hr, take_four_table (ht.configValid hr)]
    cases f <;> decide

/-- Settles O47: `DTAB` emits the differential table alone, whose first row is that of the zero difference. -/
theorem dtabStreamsTheDifferentialTable : Obligations.DtabStreamsTheDifferentialTable := by
  refine ⟨packR_f 0x35, wordsOf_of_opcode fun i hi => ?words,
    fun s f hf hr ht => ⟨_, _, exec_ready rfl hf hr, .emit s _, ?rows, ?first⟩,
    fun s f hf => faults_notReady rfl hf rfl⟩
  case words =>
    cases i with
    | dtab f => exact ⟨f, rfl⟩
    | _ => cases hi
  case rows => rw [ht.tableWords_eq hr, table_eq_flatMap_range]
  case first =>
    rw [ht.tableWords_eq hr, take_four_table (ht.configValid hr)]
    cases f <;> decide

end Sys2Proof.Machine

/-! SUPPORT. Faults and their causes (R131 to R138). -/

namespace Sys2Proof.Machine

/-! ## The obligations of 60_exceptions.md -/

/-- Settles O14: a step that sets `FAULT` is fault entry of the word at the front of the input, from the state with
that word consumed; after `present` these are the presented word and the state before it. -/
theorem faultsArePrecise : Obligations.FaultsArePrecise := by
  intro s t w hf hstep ht
  obtain ⟨w', rest, c, hinput, hentered⟩ := step_sets_fault (s := s.present (.command w)) hf hstep ht
  obtain ⟨rfl, rfl⟩ : w = w' ∧ s.input = rest := by simpa using hinput
  exact ⟨c, hentered⟩

end Sys2Proof.Machine

/-! SUPPORT. The decoder on encoded words: each operand format reads its fields back (R49 to R57). -/

namespace Sys2Proof

/-! ## Readers in sequence -/

/-- An answer is handed on: `bind_eq_ok`, the other way round. -/
@[simp] theorem ok_bind {ε α β : Type} (a : α) (g : α → Except ε β) : (Except.ok a >>= g) = g a := rfl

/-- `unused_zero` with the zero as `simp` writes it. -/
@[simp] theorem unused_ofNat_zero {n : Nat} : unused 0#n = .ok () := unused_zero

/-! ## The operand formats on the words they lay out -/

section Formats

variable (op : BitVec 8) (rd rs1 rs2 : DReg) (f : Fmt)

theorem decode0_packR (i : Instr) : decode0 (packR op 0 0 0 0) i = .ok i := by
  simp [decode0]

theorem decodeDS_packR (c : DReg → DReg → Instr) :
    decodeDS (packR op (fieldOf rd) (fieldOf rs1) 0 0) c = .ok (c rd rs1) := by
  simp [decodeDS]

theorem decodeDSS_packR (c : DReg → DReg → DReg → Instr) :
    decodeDSS (packR op (fieldOf rd) (fieldOf rs1) (fieldOf rs2) 0) c = .ok (c rd rs1 rs2) := by
  simp [decodeDSS]

theorem decodeDSK_packR (c : DReg → DReg → KeyField → Instr) {k : KeyField} (hk : KeyField.legal k = true) :
    decodeDSK (packR op (fieldOf rd) (fieldOf rs1) (fieldOf k) 0) c = .ok (c rd rs1 k) := by
  simp [decodeDSK, keyOf_fieldOf hk]

theorem decodeS_packR (c : DReg → Instr) : decodeS (packR op 0 (fieldOf rs1) 0 0) c = .ok (c rs1) := by
  simp [decodeS]

theorem decodeSSF_packR (c : DReg → DReg → Fmt → Instr) :
    decodeSSF (packR op 0 (fieldOf rs1) (fieldOf rs2) f.bit) c = .ok (c rs1 rs2 f) := by
  simp [decodeSSF]

theorem decodeSF_packR (c : DReg → Fmt → Instr) :
    decodeSF (packR op 0 (fieldOf rs1) 0 f.bit) c = .ok (c rs1 f) := by
  simp [decodeSF]

theorem decodeF_packR (c : Fmt → Instr) : decodeF (packR op 0 0 0 f.bit) c = .ok (c f) := by
  simp [decodeF]

theorem decodeLdi_packI (imm : Block) : decodeLdi (packI op (fieldOf rd) imm) = .ok (.ldi rd imm) := by
  simp [decodeLdi]

theorem decodeLdk_packI {k : KeyField} (hk : KeyField.legal k = true) (imm : Block) :
    decodeLdk (packI op (fieldOf k) imm) = .ok (.ldk k imm) := by
  simp [decodeLdk, keyOf_fieldOf hk]

end Formats

/-- The word of a well-formed command decodes to it: by its `op`, then by its format. -/
theorem decode_encode {i : Instr} (hw : i.wf = true) : decode (encode i) = .ok i := by
  rw [decode, Machine.opField_encode]
  cases i with
  | init => exact decode0_packR ..
  | ldi rd imm => exact decodeLdi_packI ..
  | xor rd rs1 rs2 => exact decodeDSS_packR ..
  | out rs1 => exact decodeS_packR ..
  | outa => exact decode0_packR ..
  | sub rd rs1 => exact decodeDS_packR ..
  | isub rd rs1 => exact decodeDS_packR ..
  | perm rd rs1 => exact decodeDS_packR ..
  | sp rd rs1 => exact decodeDS_packR ..
  | par rd rs1 => exact decodeDS_packR ..
  | dot rd rs1 rs2 => exact decodeDSS_packR ..
  | ldk k imm => exact decodeLdk_packI _ hw imm
  | kclr => exact decode0_packR ..
  | round rd rs1 rs2 => exact decodeDSS_packR ..
  | rndk rd rs1 k => exact decodeDSK_packR _ rd rs1 _ hw
  | enc rd rs1 => exact decodeDS_packR ..
  | isp rd rs1 => exact decodeDS_packR ..
  | decr rd rs1 rs2 => exact decodeDSS_packR ..
  | lent rs1 rs2 f => exact decodeSSF_packR ..
  | dent rs1 rs2 f => exact decodeSSF_packR ..
  | lrow rs1 f => exact decodeSF_packR ..
  | drow rs1 f => exact decodeSF_packR ..
  | ltab f => exact decodeF_packR ..
  | dtab f => exact decodeF_packR ..

/-! ## The obligations of 30_encoding.md about single words -/

/-- Settles O1: each format reads back the fields it lays out. -/
theorem encodedCommandsDecodeBack : Obligations.EncodedCommandsDecodeBack := fun _ => decode_encode

/-- Settles O2: the decoder accepts a word only with every field as its command's format lays it out. -/
theorem legalWordsAreEncodings : Obligations.LegalWordsAreEncodings := fun _ _ => encodes_of_decode

/-- Settles O5: each legal word is the encoding of its command, and the four others miss their format. -/
theorem specWordsDecodeAsListed : Obligations.SpecWordsDecodeAsListed :=
  ⟨decode_encode (i := .ldi 1 0x1234) rfl, decode_encode (i := .xor 3 1 2) rfl, decode_encode (i := .ldk 6 0x6D7E) rfl,
    decode_encode (i := .rndk 3 1 0) rfl, decode_encode (i := .enc 2 1) rfl, decode_encode (i := .lent 1 2 .prob) rfl,
    decode_encode (i := .drow 1 .raw) rfl, decode_encode (i := .dtab .prob) rfl,
    by decide, by decide, by decide, by decide⟩

end Sys2Proof

/-! SUPPORT. Which piece of the state a command updates (R13, column "written by"), and exactly when it faults
(R131 to R136). -/

namespace Sys2Proof.Machine

open Laws.OpByte (opcode)

/-! ## The updates of the commands -/

/-- The commands that write data register `rd` (R14). -/
def WritesX (rd : DReg) (i : Instr) : Prop :=
  (∃ v, i = .ldi rd v) ∨ (∃ a b, i = .xor rd a b ∨ i = .dot rd a b ∨ i = .round rd a b ∨ i = .decr rd a b) ∨
    (∃ a, i = .sub rd a ∨ i = .isub rd a ∨ i = .perm rd a ∨ i = .sp rd a ∨ i = .par rd a ∨ i = .enc rd a ∨
      i = .isp rd a) ∨ ∃ a k, i = .rndk rd a k

/-- The commands that write `ACC` (R16). -/
def WritesAcc (i : Instr) : Prop := ∃ a b f, i = .lent a b f ∨ i = .dent a b f

/-- The commands that emit words (R28). -/
def Emits (i : Instr) : Prop :=
  i = .outa ∨ (∃ a, i = .out a) ∨ (∃ a f, i = .lrow a f ∨ i = .drow a f) ∨ ∃ f, i = .ltab f ∨ i = .dtab f

/-- `Updates s i t`: `t` is `s` with the one piece of state written that command `i` writes. -/
inductive Updates (s : State) : Instr → State → Prop where
  | data (rd : DReg) (v : Block) {i : Instr} (hi : WritesX rd i) : Updates s i (s.writeX rd v)
  | acc (w : Word) {i : Instr} (hi : WritesAcc i) : Updates s i (s.setAcc w)
  | queue (ws : List Word) {i : Instr} (hi : Emits i) : Updates s i (s.emit ws)
  | load (k : KeyField) (v : Block) : Updates s (.ldk k v) (s.loadKey k v)
  | unload : Updates s .kclr s.unloadKeys
  | again (hr : s.ready = true) : Updates s .init s
  | build (hr : s.ready = false) : Updates s .init s.buildTables

/-- The update of every command, by the piece it writes. -/
theorem done_updates (i : Instr) (s : State) : Updates s i (done i s) := by
  cases i with
  | init =>
    cases hr : s.ready
    · simpa [done, hr] using Updates.build hr
    · simpa [done, hr] using Updates.again hr
  | ldk k v => exact .load k v
  | kclr => exact .unload
  | lent a b f => exact .acc _ ⟨a, b, f, .inl rfl⟩
  | dent a b f => exact .acc _ ⟨a, b, f, .inr rfl⟩
  | outa => exact .queue _ (.inl rfl)
  | out a => exact .queue _ (.inr (.inl ⟨a, rfl⟩))
  | lrow a f => exact .queue _ (.inr (.inr (.inl ⟨a, f, .inl rfl⟩)))
  | drow a f => exact .queue _ (.inr (.inr (.inl ⟨a, f, .inr rfl⟩)))
  | ltab f => exact .queue _ (.inr (.inr (.inr ⟨f, .inl rfl⟩)))
  | dtab f => exact .queue _ (.inr (.inr (.inr ⟨f, .inr rfl⟩)))
  | ldi rd v => exact .data rd _ (.inl ⟨v, rfl⟩)
  | rndk rd a k => exact .data rd _ (.inr (.inr (.inr ⟨a, k, rfl⟩)))
  | _ => exact .data _ _ (by simp [WritesX])

/-! ## When a command faults -/

theorem Cause.code_injective : Function.Injective Cause.code := by
  intro c d
  cases c <;> cases d <;> decide

/-- A command of an unfaulted unit faults with exactly the causes that stop it. -/
theorem faults_iff_stops {i : Instr} {s : State} {c : Cause} (hf : s.fault = false) :
    Faults i s c ↔ Stops i s c := by
  refine ⟨fun ⟨t, he, hfault, hcode, _⟩ => ?_, .of_stops hf⟩
  rcases exec_cases i s with ⟨hf', _⟩ | ⟨_, d, hd, he'⟩ | ⟨_, _, _, _, he'⟩
  · simp [hf] at hf'
  · rw [he'] at he
    cases he
    exact Cause.code_injective hcode ▸ hd
  · rw [he'] at he
    cases he
    simp [hf] at hfault

section Conditions

variable {i : Instr} {s : State}

theorem stops_illegalCmd_iff : Stops i s .illegalCmd ↔ i.wf = false :=
  ⟨fun | .illegalCmd hw => hw, .illegalCmd⟩

theorem stops_notReady_iff : Stops i s .notReady ↔ i.wf = true ∧ needsReady i = true ∧ s.ready = false :=
  ⟨fun | .notReady hw hn hr => ⟨hw, hn, hr⟩, fun ⟨hw, hn, hr⟩ => .notReady hw hn hr⟩

theorem stops_cfgInvalid_iff : Stops i s .cfgInvalid ↔ i = .init ∧ s.ready = false ∧ ¬ ConfigValid s.params :=
  ⟨fun | .cfgInvalid hi hr hc => ⟨hi, hr, hc⟩, fun ⟨hi, hr, hc⟩ => .cfgInvalid hi hr hc⟩

theorem State.allKeysValid_eq_false_iff (s : State) : s.allKeysValid = false ↔ ∃ n < 7, s.keyValid n = false := by
  rw [Bool.eq_false_iff, ne_eq, s.allKeysValid_iff]
  push Not
  simp only [ne_eq, Bool.not_eq_true]

theorem stops_keyInvalid_iff : Stops i s .keyInvalid ↔ s.ready = true ∧
    ((∃ rd rs1 k, i = .rndk rd rs1 k ∧ i.wf = true ∧ s.keyValid k = false) ∨
      (∃ rd rs1, i = .enc rd rs1 ∧ ∃ n < 7, s.keyValid n = false)) := by
  simp only [← s.allKeysValid_eq_false_iff]
  constructor
  · intro
    | .roundKey rd rs1 k hi hw hr hk => exact ⟨hr, .inl ⟨rd, rs1, k, hi, hw, hk⟩⟩
    | .keySet rd rs1 hi hr hk => exact ⟨hr, .inr ⟨rd, rs1, hi, hk⟩⟩
  · rintro ⟨hr, ⟨rd, rs1, k, hi, hw, hk⟩ | ⟨rd, rs1, hi, hk⟩⟩
    · exact .roundKey rd rs1 k hi hw hr hk
    · exact .keySet rd rs1 hi hr hk

theorem stops_keyLocked_iff :
    Stops i s .keyLocked ↔ ∃ k imm, i = .ldk k imm ∧ i.wf = true ∧ s.keyValid k = true :=
  ⟨fun | .keyLocked k imm hi hw hk => ⟨k, imm, hi, hw, hk⟩, fun ⟨k, imm, hi, hw, hk⟩ => .keyLocked k imm hi hw hk⟩

end Conditions

/-- The commands that need `READY` are all but those of seven values of `op` (R22). -/
theorem needsReady_iff (i : Instr) :
    needsReady i = true ↔ opcode i ∉ [0x01, 0x02, 0x03, 0x04, 0x05, 0x20, 0x21] := by
  cases i <;> simp [needsReady, opcode]

/-- Settles O15: a command of an unfaulted unit faults with the cause that stops it, and otherwise runs. -/
theorem eachCauseHasItsCondition : Obligations.EachCauseHasItsCondition := by
  refine ⟨fun i => opField_encode i ▸ needsReady_iff i, fun s i hf => ?_⟩
  simp only [faults_iff_stops hf]
  refine ⟨stops_illegalCmd_iff, stops_notReady_iff, stops_cfgInvalid_iff, stops_keyInvalid_iff, stops_keyLocked_iff, ?_⟩
  by_cases h : ∃ c, Stops i s c
  · exact .inl h
  · exact .inr ⟨done i s, exec_done hf (not_exists.1 h), by rw [done_fault, hf]⟩

/-! ## What a command leaves unchanged -/

/-- Everything a command can make of a state: nothing, fault entry, or its update. -/
theorem exec_eq_next {i : Instr} {s t : State} (h : exec i s = .next t) :
    t = s ∨ (∃ c w, t = s.raise c w) ∨ Updates s i t := by
  rcases exec_cases i s with ⟨_, he⟩ | ⟨_, c, _, he⟩ | ⟨_, _, _, _, he⟩ <;> rw [he] at h <;> cases h
  · exact .inl rfl
  · exact .inr (.inl ⟨c, _, rfl⟩)
  · exact .inr (.inr (done_updates i s))

/-- The frame that R13 gives each command: every piece but those it is listed to write stays. -/
structure Frame (i : Instr) (s t : State) : Prop where
  data : t.x = s.x ∨ ∃ rd v, WritesX rd i ∧ t.x = (s.writeX rd v).x
  acc : t.acc = s.acc ∨ WritesAcc i
  keys : (t.k = s.k ∧ t.kvalid = s.kvalid) ∨ (∃ k v, i = .ldk k v) ∨ i = .kclr
  tables : (t.ready = s.ready ∧ t.sptab = s.sptab ∧ t.partab = s.partab) ∨ i = .init
  queue : t.outq = s.outq ∨ Emits i
  host : t.params = s.params ∧ t.input = s.input ∧ t.seen = s.seen

theorem Updates.frame {i : Instr} {s t : State} (h : Updates s i t) : Frame i s t := by
  cases h with
  | data rd v hi =>
    exact ⟨.inr ⟨rd, v, hi, rfl⟩, .inl rfl, .inl ⟨rfl, rfl⟩, .inl ⟨rfl, rfl, rfl⟩, .inl rfl, ⟨rfl, rfl, rfl⟩⟩
  | acc w hi => exact ⟨.inl rfl, .inr hi, .inl ⟨rfl, rfl⟩, .inl ⟨rfl, rfl, rfl⟩, .inl rfl, ⟨rfl, rfl, rfl⟩⟩
  | queue ws hi => exact ⟨.inl rfl, .inl rfl, .inl ⟨rfl, rfl⟩, .inl ⟨rfl, rfl, rfl⟩, .inr hi, ⟨rfl, rfl, rfl⟩⟩
  | load k v =>
    exact ⟨.inl rfl, .inl rfl, .inr (.inl ⟨k, v, rfl⟩), .inl ⟨rfl, rfl, rfl⟩, .inl rfl, ⟨rfl, rfl, rfl⟩⟩
  | unload => exact ⟨.inl rfl, .inl rfl, .inr (.inr rfl), .inl ⟨rfl, rfl, rfl⟩, .inl rfl, ⟨rfl, rfl, rfl⟩⟩
  | again => exact ⟨.inl rfl, .inl rfl, .inl ⟨rfl, rfl⟩, .inr rfl, .inl rfl, ⟨rfl, rfl, rfl⟩⟩
  | build => exact ⟨.inl rfl, .inl rfl, .inl ⟨rfl, rfl⟩, .inr rfl, .inl rfl, ⟨rfl, rfl, rfl⟩⟩

/-- A state in which no piece of R13 but the fault record differs is in every command's frame. -/
theorem Frame.raise (i : Instr) (s : State) (c : Cause) (w : Word) : Frame i s (s.raise c w) :=
  ⟨.inl rfl, .inl rfl, .inl ⟨rfl, rfl⟩, .inl ⟨rfl, rfl, rfl⟩, .inl rfl, ⟨rfl, rfl, rfl⟩⟩

theorem Frame.refl (i : Instr) (s : State) : Frame i s s :=
  ⟨.inl rfl, .inl rfl, .inl ⟨rfl, rfl⟩, .inl ⟨rfl, rfl, rfl⟩, .inl rfl, ⟨rfl, rfl, rfl⟩⟩

theorem exec_frame {i : Instr} {s t : State} (h : exec i s = .next t) : Frame i s t := by
  rcases exec_eq_next h with rfl | ⟨c, w, rfl⟩ | hu
  · exact .refl i t
  · exact .raise i s c w
  · exact hu.frame

/-- At most the destination register changes (R15). -/
theorem Frame.readX {i : Instr} {s t : State} (h : Frame i s t) : ∃ rd, ∀ r, r ≠ rd → t.readX r = s.readX r := by
  rcases h.data with hx | ⟨rd, v, _, hx⟩
  · exact ⟨0, fun r _ => congrArg (fun x : Vector Block 8 => x[r]) hx⟩
  · exact ⟨rd, fun r hr => (congrArg (fun x : Vector Block 8 => x[r]) hx).trans (s.readX_writeX_other v hr)⟩

/-- Settles O16: each clause is one side of the command's frame. -/
theorem onlyListedCommandsWriteEachPiece : Obligations.OnlyListedCommandsWriteEachPiece := by
  intro i s t h
  have hframe := exec_frame h
  refine ⟨hframe.readX, fun hx => ?data, hframe.acc.resolve_left, fun hk => ?keys, fun htab => ?tables,
    hframe.queue.resolve_left, hframe.host⟩
  case data =>
    obtain ⟨rd, _, hi, _⟩ := hframe.data.resolve_left hx
    exact ⟨rd, hi⟩
  case keys => exact hframe.keys.resolve_left fun ⟨h1, h2⟩ => hk.elim (· h1) (· h2)
  case tables => exact hframe.tables.resolve_left fun ⟨h1, h2, h3⟩ => htab.elim (· h1) (·.elim (· h2) (· h3))

end Sys2Proof.Machine

/-! SUPPORT. Everything a step can do, said once, and the invariants that follow from it (R17, R18, R22, R26, R28,
R137). -/

namespace Sys2Proof.Machine

/-! ## Every step goes on (93_implementation_defined.md, part 1) -/

theorem exec_goesOn (i : Instr) (s : State) : ∃ t, exec i s = .next t := by
  rcases exec_cases i s with ⟨_, he⟩ | ⟨_, c, _, he⟩ | ⟨_, _, _, _, he⟩
  · exact ⟨s, he⟩
  · exact ⟨_, he⟩
  · exact ⟨_, he⟩

theorem runWord_goesOn (w : Word) (s : State) : ∃ t, runWord w s = .next t := by
  rcases runWord_cases w s with ⟨i, _, he⟩ | ⟨_, _, he⟩
  · exact he ▸ exec_goesOn i s
  · exact ⟨_, he⟩

theorem runAction_goesOn (a : HostAction) (s : State) : ∃ t, runAction a s = .next t := by
  rcases runAction_cases a s with ⟨_, he⟩ | ⟨w, _, he⟩ | ⟨_, _, he⟩
  · exact ⟨_, he⟩
  · exact he ▸ runWord_goesOn w s
  · exact ⟨_, he⟩

theorem step_goesOn (s : State) : ∃ t, step s = .next t := by
  rcases step_cases s with ⟨_, he⟩ | ⟨a, rest, _, he⟩
  · exact ⟨_, he⟩
  · exact he ▸ runAction_goesOn a _

/-- Settles O9: no case of a command, a word or an action ends otherwise. -/
theorem everyStepHasANextState : Obligations.EveryStepHasANextState := ⟨exec_goesOn, step_goesOn⟩

/-- Settles O8: the front action is carried out in the state without it, and a legal word runs its command. -/
theorem stepRunsTheDecodedCommand : Obligations.StepRunsTheDecodedCommand := by
  refine ⟨fun s w rest i hin hi _ => ?_, fun s hin => ?_⟩
  · rw [step_of_input hin, runAction, runWord, hi]
  · rcases step_cases s with ⟨_, he⟩ | ⟨a, rest, hin', _⟩
    · exact he
    · rw [hin] at hin'; cases hin'

/-! ## The effect of a step -/

/-- Why the word `w` stops an unfaulted unit. -/
def WordStops (w : Word) (s : State) (c : Cause) : Prop :=
  (c = .illegalCmd ∧ ∃ e, decode w = .error e) ∨ ∃ i, decode w = .ok i ∧ Stops i s c

/-- `Effect a s t`: what the host's action `a` makes of `s`. -/
inductive Effect (s : State) : HostAction → State → Prop where
  | reset : Effect s .reset s.hostReset
  | discard (w : Word) (hf : s.fault = true) : Effect s (.command w) s
  | stop (w : Word) (c : Cause) (hf : s.fault = false) (hc : WordStops w s c) : Effect s (.command w) (s.raise c w)
  | update (w : Word) (i : Instr) (t : State) (hf : s.fault = false) (hi : decode w = .ok i)
      (hno : ∀ c, ¬ Stops i s c) (ht : Updates s i t) : Effect s (.command w) t
  | status : Effect s .readStatus (s.record (.status s.status))
  | errcmd : Effect s .readErrcmd (s.record (.errcmd s.errcmd))
  | popEmpty (hq : s.outq = []) : Effect s .popOut s
  | pop (w : Word) (rest : List Word) (hq : s.outq = w :: rest) :
      Effect s .popOut { s with outq := rest, seen := s.seen ++ [.word w] }

theorem runWord_effect {w : Word} {s t : State} (h : runWord w s = .next t) : Effect s (.command w) t := by
  cases hf : s.fault with
  | true => rw [runWord_faulted hf] at h; cases h; exact .discard w hf
  | false =>
    rcases runWord_cases w s with ⟨i, hi, hrun⟩ | ⟨e, he, _⟩
    · rw [hrun] at h
      rcases exec_cases i s with ⟨hf', _⟩ | ⟨_, c, hc, hx⟩ | ⟨_, _, _, hno, hx⟩
      · simp [hf] at hf'
      · rw [hx, (encodes_of_decode hi).2] at h; cases h; exact .stop w c hf (.inr ⟨i, hi, hc⟩)
      · rw [hx] at h; cases h; exact .update w i _ hf hi hno (done_updates i s)
    · rw [runWord_rejected he hf] at h; cases h; exact .stop w _ hf (.inl ⟨rfl, e, he⟩)

theorem runAction_effect {a : HostAction} {s t : State} (h : runAction a s = .next t) : Effect s a t := by
  cases a with
  | reset => cases h; exact .reset
  | command w => exact runWord_effect h
  | readStatus => cases h; exact .status
  | readErrcmd => cases h; exact .errcmd
  | popOut =>
    cases h
    rcases s.hostPop_cases with ⟨hq, hs⟩ | ⟨w, rest, hq, hs⟩
    · rw [hs]; exact .popEmpty hq
    · rw [hs]; exact .pop w rest hq

/-- Everything a step can do: idle, or the effect of the host's next action on the state without it. -/
theorem step_effect {s t : State} (h : step s = .next t) :
    (s.input = [] ∧ t = s) ∨ ∃ a rest, s.input = a :: rest ∧ Effect { s with input := rest } a t := by
  rcases step_cases s with ⟨hin, he⟩ | ⟨a, rest, hin, he⟩
  · rw [he] at h; cases h; exact .inl ⟨hin, rfl⟩
  · exact .inr ⟨a, rest, hin, runAction_effect (he.symm.trans h)⟩

/-! ## Soundness (R26, R137) -/

theorem soundReset (p : Params) : { State.reset with params := p }.Sound :=
  ⟨fun h => (nomatch h), fun _ => ⟨rfl, rfl⟩, fun h => (nomatch h)⟩

/-- Settles O11: the unit after reset is neither ready nor faulted. -/
theorem resetIsSound : Obligations.ResetIsSound := soundReset

/-- The fault that stops a word records a cause that holds of the unit it leaves (R131 to R135). -/
theorem WordStops.causeHolds {w : Word} {s : State} {c : Cause} (h : WordStops w s c) : CauseHolds c w s := by
  rcases h with ⟨rfl, he⟩ | ⟨i, hi, hc⟩
  · exact he
  · obtain ⟨hw, henc⟩ := encodes_of_decode hi
    cases hc with
    | illegalCmd hill => simp [hill] at hw
    | notReady _ hn hr => exact ⟨i, hi, hn, hr⟩
    | cfgInvalid hinit hr hc => subst hinit; exact ⟨henc.symm, hr, hc⟩
    | roundKey rd rs1 k hrndk _ hr hk => subst hrndk; exact .inl ⟨rd, rs1, k, hi, hk, hr⟩
    | keySet rd rs1 hset hr hk =>
      subst hset
      obtain ⟨n, hn, hv⟩ := s.allKeysValid_eq_false_iff.1 hk
      exact .inr ⟨rd, rs1, n, hi, hn, hv, hr⟩
    | keyLocked k imm hldk _ hk => subst hldk; exact ⟨k, imm, hi, hk⟩

/-- A cause looks at none of the fields that fault entry writes, so it holds after as before. -/
theorem CauseHolds.raise {c : Cause} {w : Word} {s : State} (h : CauseHolds c w s) : CauseHolds c w (s.raise c w) := by
  cases c <;> exact h

theorem State.Sound.raise {s : State} (h : s.Sound) {c : Cause} {w : Word} (hc : CauseHolds c w s) :
    (s.raise c w).Sound := by
  obtain ⟨htables, _⟩ := h
  exact ⟨htables, fun hf => (nomatch hf), fun _ => ⟨c, rfl, hc.raise⟩⟩

/-- An unfaulted unit is sound when its tables are frozen and its fault record is empty. -/
theorem State.Sound.of_unfaulted {s : State} (ht : TablesFrozen s) (hf : s.fault = false) (hcode : s.errcode = 0)
    (hcmd : s.errcmd = 0) : s.Sound :=
  ⟨ht, fun _ => ⟨hcode, hcmd⟩, fun h => by simp [hf] at h⟩

theorem State.Sound.updates {s t : State} {i : Instr} (h : s.Sound) (hf : s.fault = false)
    (hno : ∀ c, ¬ Stops i s c) (ht : Updates s i t) : t.Sound := by
  obtain ⟨htab, hrec, _⟩ := h
  obtain ⟨hcode, hcmd⟩ := hrec hf
  cases ht with
  | build hr =>
    have hvalid : ConfigValid s.params := by
      by_contra hc
      exact hno _ (.cfgInvalid rfl hr hc)
    exact .of_unfaulted (fun _ => ⟨hvalid, fun _ => rfl, fun _ => rfl⟩) hf hcode hcmd
  | _ => exact .of_unfaulted htab hf hcode hcmd

theorem State.Sound.effect {s t : State} {a : HostAction} (h : s.Sound) (ht : Effect s a t) : t.Sound := by
  cases ht with
  | reset => exact soundReset s.params
  | stop w c _ hc => exact h.raise hc.causeHolds
  | update w i _ hf _ hno ht => exact h.updates hf hno ht
  | _ => exact h

/-- Settles O10: fault entry records the cause that stopped the word, `INIT` builds tables only under valid
parameters, and no other effect writes what soundness looks at without making it trivial. -/
theorem everyStepKeepsSoundness : Obligations.EveryStepKeepsSoundness := by
  intro s t h hstep
  rcases step_effect hstep with ⟨_, rfl⟩ | ⟨a, rest, _, he⟩
  · exact h
  · exact State.Sound.effect (s := { s with input := rest }) h he

/-! ## What stays until reset -/

/-- The tables of a ready unit stay (R22, R33). -/
theorem Effect.ready_stays {s t : State} {a : HostAction} (h : Effect s a t) (hr : s.ready = true) (ha : a ≠ .reset) :
    t.ready = true ∧ t.sptab = s.sptab ∧ t.partab = s.partab := by
  cases h with
  | reset => exact absurd rfl ha
  | update w i _ _ _ _ ht =>
    cases ht with
    | build hr' => simp [hr] at hr'
    | _ => exact ⟨hr, rfl, rfl⟩
  | _ => exact ⟨hr, rfl, rfl⟩

/-- Only `INIT` under valid parameters makes a unit ready (R64). -/
theorem Effect.becomes_ready {s t : State} {a : HostAction} (h : Effect s a t) (hr : s.ready = false)
    (ht : t.ready = true) : a = .command (encode .init) ∧ ConfigValid s.params := by
  cases h with
  | reset => cases ht
  | update w i _ _ hi hno hu =>
    cases hu with
    | build =>
      refine ⟨by rw [(encodes_of_decode hi).2], ?_⟩
      by_contra hc
      exact hno _ (.cfgInvalid rfl hr hc)
    | _ => exact absurd (hr.symm.trans ht) Bool.false_ne_true
  | _ => exact absurd (hr.symm.trans ht) Bool.false_ne_true

/-- Settles O18: the tables are written by `INIT` alone, which writes nothing in a ready unit. -/
theorem readyTablesStayFrozen : Obligations.ReadyTablesStayFrozen := by
  constructor
  · intro s t hr hreset h
    rcases step_effect h with ⟨_, rfl⟩ | ⟨a, rest, hin, he⟩
    · exact ⟨hr, rfl, rfl⟩
    · exact he.ready_stays hr fun ha => hreset (by rw [hin, ha]; rfl)
  · intro s t hr h ht
    rcases step_effect h with ⟨_, rfl⟩ | ⟨a, rest, hin, he⟩
    · simp [hr] at ht
    · obtain ⟨ha, hc⟩ := he.becomes_ready hr ht
      exact ⟨by rw [hin, ha]; rfl, hc⟩

/-- A loaded key stays (R17, R18). -/
theorem Effect.key_stays {s t : State} {a : HostAction} {n : Nat} (h : Effect s a t) (hk : s.keyValid n = true)
    (ha : a ≠ .reset) (hclr : a ≠ .command (encode .kclr)) : t.keyValid n = true ∧ t.readKey n = s.readKey n := by
  cases h with
  | reset => exact absurd rfl ha
  | update w i _ _ hi hno hu =>
    obtain ⟨hw, henc⟩ := encodes_of_decode hi
    cases hu with
    | unload => exact absurd (by rw [henc]) hclr
    | load k v =>
      have hlegal : k.val < 7 := of_decide_eq_true hw
      -- key `k` is not loaded, or `LDK` would have been stopped
      have hne : n ≠ k.val := by
        rintro rfl
        exact hno _ (.keyLocked k v rfl hw hk)
      rw [s.keyValid_loadKey k n v hlegal, s.readKey_loadKey k n v hlegal, if_neg hne, if_neg hne]
      exact ⟨hk, rfl⟩
    | _ => exact ⟨hk, rfl⟩
  | _ => exact ⟨hk, rfl⟩

/-- Settles O19: of the commands only `LDK` and `KCLR` write keys, and `LDK` does not write a loaded one. -/
theorem loadedKeysAreImmutable : Obligations.LoadedKeysAreImmutable := by
  intro s t n _ hk hreset hclr h
  rcases step_effect h with ⟨_, rfl⟩ | ⟨a, rest, hin, he⟩
  · exact ⟨hk, rfl⟩
  · refine he.key_stays hk (fun ha => hreset ?_) (fun ha => hclr ?_)
    · rw [hin, ha]; rfl
    · rw [hin, ha]; rfl

/-! ## The output queue (R28, R42) -/

theorem State.taken_append_word (s : State) (w : Word) (q : List Word) :
    ({ s with outq := q, seen := s.seen ++ [.word w] } : State).taken = s.taken ++ [w] := by
  simp [State.taken]

/-- What commands emit stands at the back of `OUTQ`; nothing else in it changes, nor what the host has seen. -/
theorem Updates.emits {s t : State} {i : Instr} (h : Updates s i t) :
    ∃ ws, t.outq = s.outq ++ ws ∧ t.seen = s.seen ∧ t.input = s.input := by
  cases h with
  | queue ws => exact ⟨ws, rfl, rfl, rfl⟩
  | _ => exact ⟨[], (List.append_nil _).symm, rfl, rfl⟩

/-- A presented word only appends to `OUTQ`. -/
theorem Effect.command_emits {s t : State} {w : Word} (h : Effect s (.command w) t) :
    ∃ ws, t.outq = s.outq ++ ws ∧ t.seen = s.seen ∧ t.input = s.input := by
  cases h with
  | update _ _ _ _ _ _ hu => exact hu.emits
  | discard => exact ⟨[], (List.append_nil _).symm, rfl, rfl⟩
  | stop => exact ⟨[], (List.append_nil _).symm, rfl, rfl⟩

/-- Words at the back of `OUTQ` are the last emitted. -/
theorem State.emitted_append {s t : State} {ws : List Word} (hq : t.outq = s.outq ++ ws) (hs : t.seen = s.seen) :
    t.emitted = s.emitted ++ ws := by
  rw [State.emitted, State.emitted, State.taken, State.taken, hq, hs, List.append_assoc]

@[simp] theorem State.emitted_hostReadStatus (s : State) : s.hostReadStatus.emitted = s.emitted := by
  simp [State.emitted, State.taken, State.hostReadStatus, State.record]

@[simp] theorem State.emitted_hostReadErrcmd (s : State) : s.hostReadErrcmd.emitted = s.emitted := by
  simp [State.emitted, State.taken, State.hostReadErrcmd, State.record]

/-- A word that is removed stays an emitted word. -/
@[simp] theorem State.emitted_hostPop (s : State) : s.hostPop.emitted = s.emitted := by
  rcases s.hostPop_cases with ⟨_, hs⟩ | ⟨w, rest, hq, hs⟩
  · rw [hs]
  · rw [hs, State.emitted, State.taken_append_word, State.emitted, hq, List.append_assoc]
    rfl

theorem runAction_emitted {a : HostAction} {s t : State} (ha : a ≠ .reset) (h : runAction a s = .next t) :
    ∃ ws, t.emitted = s.emitted ++ ws := by
  cases a with
  | reset => exact absurd rfl ha
  | command w =>
    obtain ⟨ws, hq, hs, _⟩ := (runWord_effect h).command_emits
    exact ⟨ws, State.emitted_append hq hs⟩
  | readStatus => cases h; exact ⟨[], by simp⟩
  | readErrcmd => cases h; exact ⟨[], by simp⟩
  | popOut => cases h; exact ⟨[], by simp⟩

/-- Settles O22: commands append to `OUTQ`, and the host moves its front word to the end of what it has taken. -/
theorem outputQueueIsFirstInFirstOut : Obligations.OutputQueueIsFirstInFirstOut := by
  refine ⟨fun s t hreset h => ?grows, fun s w rest hq => ?pops, fun s hq => ?empty⟩
  case grows =>
    rcases step_cases s with ⟨_, he⟩ | ⟨a, rest, hin, he⟩ <;> rw [he] at h
    · cases h; exact ⟨[], (List.append_nil _).symm⟩
    · exact runAction_emitted (s := { s with input := rest }) (fun ha => hreset (by rw [hin, ha]; rfl)) h
  case pops =>
    refine ⟨{ s with outq := rest, seen := s.seen ++ [.word w] }, ?_, rfl, s.taken_append_word w rest, rfl⟩
    rw [step_present, runAction, State.hostPop, hq]
  case empty => rw [step_present, runAction, State.hostPop, hq]

/-! ## `STATUS` (R20) -/

theorem State.getLsbD_status (s : State) {b : Nat} (hb : b < 32) : s.status.getLsbD b =
    if b = 0 then s.ready else if b = 1 then s.fault else if 8 ≤ b ∧ b ≤ 14 then s.keyValid (b - 8)
    else if 16 ≤ b ∧ b ≤ 19 then s.errcode.getLsbD (b - 16) else false := by
  simp only [State.status, BitVec.getLsbD_or, getLsbD_place, s.getLsbD_kvalidUpTo le_rfl, BitVec.getLsbD_ofBool, hb,
    decide_true, Bool.true_and]
  split_ifs with h0 h1 hkey hcode
  · subst h0; simp
  · subst h1; simp
  · have hpos : ¬ 16 ≤ b ∧ b - 8 < 7 ∧ b - 1 ≠ 0 ∧ b ≠ 0 := by omega
    simp [hpos, hkey]
  · have hpos : ¬ b - 8 < 7 ∧ b - 1 ≠ 0 ∧ b ≠ 0 := by omega
    simp [hpos, hcode]
  · have herr : 16 ≤ b → s.errcode.getLsbD (b - 16) = false := fun h => BitVec.getLsbD_of_ge _ _ (by omega)
    have hkvalid : 8 ≤ b → ¬ b - 8 < 7 := by omega
    have hone : 1 ≤ b → b - 1 ≠ 0 := by omega
    simp only [Bool.or_eq_false_iff, Bool.and_eq_false_imp, decide_eq_true_eq]
    exact ⟨⟨⟨herr, fun h8 h7 => absurd h7 (hkvalid h8)⟩, fun h hb1 => absurd hb1 (hone h)⟩, fun _ hb0 => absurd hb0 h0⟩

/-- Settles O23: each bit lies in at most one of the placed fields, and reading only records what was read. -/
theorem statusWordBitByBit : Obligations.StatusWordBitByBit :=
  ⟨fun s _ => s.getLsbD_status, fun _ => ⟨rfl, rfl⟩⟩

end Sys2Proof.Machine

/-! SUPPORT. Two states side by side: what no command's checks tell apart, what cannot be read (R17, R18, R26), and
the actions still to come (R144). -/

namespace Sys2Proof.Machine

/-! ## Running a word in two states -/

/-- No check of R63 or of a command tells the two states apart. -/
structure SameChecks (s t : State) : Prop where
  fault : s.fault = t.fault
  ready : s.ready = t.ready
  params : s.params = t.params
  kvalid : s.kvalid = t.kvalid

section SideBySide

variable {s t : State}

theorem State.keyValid_congr (h : s.kvalid = t.kvalid) : s.keyValid = t.keyValid := by
  funext n
  rw [State.keyValid, State.keyValid, h]

theorem SameChecks.symm (h : SameChecks s t) : SameChecks t s :=
  ⟨h.fault.symm, h.ready.symm, h.params.symm, h.kvalid.symm⟩

theorem SameChecks.stops (h : SameChecks s t) {i : Instr} {c : Cause} (hc : Stops i s c) : Stops i t c := by
  have hkey := State.keyValid_congr h.kvalid
  cases hc with
  | illegalCmd hw => exact .illegalCmd hw
  | notReady hw hn hr => exact .notReady hw hn (h.ready ▸ hr)
  | cfgInvalid hi hr hc => exact .cfgInvalid hi (h.ready ▸ hr) (h.params ▸ hc)
  | roundKey rd rs1 k hi hw hr hk => exact .roundKey rd rs1 k hi hw (h.ready ▸ hr) (hkey ▸ hk)
  | keySet rd rs1 hi hr hk =>
    refine .keySet rd rs1 hi (h.ready ▸ hr) ?_
    rwa [State.allKeysValid, ← hkey]
  | keyLocked k imm hi hw hk => exact .keyLocked k imm hi hw (hkey ▸ hk)

/-- The relation holds after the update of every command that nothing stops. -/
def KeptByUpdates (R : State → State → Prop) (i : Instr) (s t : State) : Prop :=
  i.wf = true → (needsReady i = true → t.ready = true) → (∀ c, ¬ Stops i t c) → R (done i s) (done i t)

variable {R : State → State → Prop} (h : SameChecks s t) (hself : R s t)
  (hraise : ∀ c w, R (s.raise c w) (t.raise c w))
include h hself hraise

/-- States that no check tells apart run a command alike. -/
theorem exec_related {i : Instr} (hdone : KeptByUpdates R i s t) : NextRelated R (exec i s) (exec i t) := by
  rcases exec_cases i t with ⟨hf, he⟩ | ⟨hf, c, hc, he⟩ | ⟨hf, hw, hn, hno, he⟩
  · exact ⟨s, t, exec_faulted (h.fault.trans hf) i, he, hself⟩
  · exact ⟨_, _, exec_stopped (h.fault.trans hf) (h.symm.stops hc), he, hraise c _⟩
  · exact ⟨_, _, exec_done (h.fault.trans hf) fun c hc => hno c (h.stops hc), he, hdone hw hn hno⟩

/-- States that no check tells apart run a word alike. -/
theorem runWord_related (hdone : ∀ i, KeptByUpdates R i s t) (w : Word) :
    NextRelated R (runWord w s) (runWord w t) := by
  cases hd : decode w with
  | ok i => simpa [runWord, hd] using exec_related h hself hraise (hdone i)
  | error e =>
    cases hf : t.fault with
    | true => exact ⟨s, t, runWord_faulted (h.fault.trans hf) w, runWord_faulted hf w, hself⟩
    | false => exact ⟨_, _, runWord_rejected hd (h.fault.trans hf), runWord_rejected hd hf, hraise _ w⟩

end SideBySide

/-! ## Key values (R17) -/

theorem SameButKeyValues.checks {s t : State} (h : SameButKeyValues s t) : SameChecks s t := by
  rw [← show { t with k := s.k } = s from h]
  exact ⟨rfl, rfl, rfl, rfl⟩

theorem SameButKeyValues.raise {s t : State} (h : SameButKeyValues s t) (c : Cause) (w : Word) :
    SameButKeyValues (s.raise c w) (t.raise c w) :=
  congrArg (fun u : State => u.raise c w) h

/-- The update of a command that reads no key is the same under other key values. -/
theorem SameButKeyValues.done {s t : State} (h : SameButKeyValues s t) {i : Instr} (hi : readsKeys i = false) :
    SameButKeyValues (done i s) (done i t) := by
  rw [← show { t with k := s.k } = s from h]
  cases i with
  | rndk => cases hi
  | enc => cases hi
  | init => simp only [Machine.done]; split <;> rfl
  | _ => rfl

/-- Settles O21: key values decide neither a check nor the update of such a command. -/
theorem keyValuesReachOnlyRndkAndEnc : Obligations.KeyValuesReachOnlyRndkAndEnc :=
  fun _ _ _ hi h => exec_related h.checks h h.raise fun _ _ _ => h.done hi

/-! ## What cannot be read (R18, R26) -/

namespace SameReadable

variable {s t : State}

theorem frame (h : SameReadable s t) : { t with k := s.k, sptab := s.sptab, partab := s.partab } = s := h.1

theorem keys (h : SameReadable s t) (n : Nat) (hn : s.keyValid n = true) : s.readKey n = t.readKey n := h.2.1 n hn

theorem tables (h : SameReadable s t) (hr : s.ready = true) : s.sptab = t.sptab ∧ s.partab = t.partab := h.2.2 hr

/-- `s` is `t` with other keys and tables. -/
theorem eq_withUnread (h : SameReadable s t) : s = { t with k := s.k, sptab := s.sptab, partab := s.partab } :=
  h.frame.symm

theorem checks (h : SameReadable s t) : SameChecks s t := by
  rw [h.eq_withUnread]
  exact ⟨rfl, rfl, rfl, rfl⟩

theorem raise (h : SameReadable s t) (c : Cause) (w : Word) : SameReadable (s.raise c w) (t.raise c w) :=
  ⟨congrArg (fun u : State => u.raise c w) h.frame, h.keys, h.tables⟩

theorem writeX (h : SameReadable s t) (rd : DReg) (v : Block) : SameReadable (s.writeX rd v) (t.writeX rd v) :=
  ⟨congrArg (fun u : State => u.writeX rd v) h.frame, h.keys, h.tables⟩

theorem loadKey (h : SameReadable s t) {n : Nat} (hn : n < 7) (v : Block) :
    SameReadable (s.loadKey n v) (t.loadKey n v) := by
  have hkeys : ∀ m, (s.loadKey n v).keyValid m = true → (s.loadKey n v).readKey m = (t.loadKey n v).readKey m := by
    intro m hm
    rw [s.keyValid_loadKey n m v hn] at hm
    rw [s.readKey_loadKey n m v hn, t.readKey_loadKey n m v hn]
    split
    next => rfl
    next hne => exact h.keys m (by rwa [if_neg hne] at hm)
  refine ⟨?_, hkeys, h.tables⟩
  rw [h.eq_withUnread]
  rfl

theorem unloadKeys (h : SameReadable s t) : SameReadable s.unloadKeys t.unloadKeys := by
  refine ⟨?_, fun n hn => by simp at hn, h.tables⟩
  rw [h.eq_withUnread]
  rfl

theorem buildTables (h : SameReadable s t) : SameReadable s.buildTables t.buildTables := by
  obtain ⟨heq, hkeys, _⟩ := h
  rw [← heq] at hkeys ⊢
  exact ⟨rfl, hkeys, fun _ => ⟨rfl, rfl⟩⟩

/-- A unit that is ready lets its tables be read, so only keys can differ. -/
theorem eq_withKeys (h : SameReadable s t) (hr : s.ready = true) : s = { t with k := s.k } := by
  obtain ⟨hsptab, hpartab⟩ := h.tables hr
  have heq := h.eq_withUnread
  rwa [hsptab, hpartab] at heq

/-- With every key loaded, every key can be read. -/
theorem readKey_eq (h : SameReadable s t) (hall : ∀ n < 7, s.keyValid n = true) : s.readKey = t.readKey := by
  funext n
  by_cases hn : n < 7
  · exact h.keys n (hall n hn)
  · simp [State.readKey, hn]

/-- The update of a command in a ready unit: `RNDK` and `ENC` read loaded keys alone. -/
theorem done_ready {K : Vector Block 7} (h : SameReadable { t with k := K } t) (hr : t.ready = true) {i : Instr}
    (hw : i.wf = true) (hno : ∀ c, ¬ Stops i t c) : SameReadable (done i { t with k := K }) (done i t) := by
  cases i with
  | init => simpa [done, hr] using h
  | ldk k v => exact h.loadKey (of_decide_eq_true hw) v
  | kclr => exact h.unloadKeys
  | rndk rd rs1 k =>
    have hloaded : t.keyValid k = true := by
      by_contra hk
      exact hno _ (.roundKey rd rs1 k rfl hw hr (Bool.eq_false_iff.2 hk))
    have hkey : State.readKey { t with k := K } k = t.readKey k := h.keys k hloaded
    rw [done, done, hkey]
    exact h.writeX rd _
  | enc rd rs1 =>
    have hloaded : t.allKeysValid = true := by
      by_contra hk
      exact hno _ (.keySet rd rs1 rfl hr (Bool.eq_false_iff.2 hk))
    have hkeys : State.readKey { t with k := K } = t.readKey := h.readKey_eq (t.allKeysValid_iff.1 hloaded)
    rw [done, done, hkeys]
    exact h.writeX rd _
  | _ => exact ⟨rfl, h.keys, h.tables⟩

/-- The update of a command that does not need `READY`: none reads a key or a table. -/
theorem done_control {K : Vector Block 7} {S : SpTab} {P : ParTab}
    (h : SameReadable { t with k := K, sptab := S, partab := P } t) {i : Instr} (hn : needsReady i = false)
    (hw : i.wf = true) (hr : t.ready = false) :
    SameReadable (done i { t with k := K, sptab := S, partab := P }) (done i t) := by
  cases i with
  | init => simpa [done, hr] using h.buildTables
  | ldi => exact ⟨rfl, h.keys, h.tables⟩
  | xor => exact ⟨rfl, h.keys, h.tables⟩
  | out => exact ⟨rfl, h.keys, h.tables⟩
  | outa => exact ⟨rfl, h.keys, h.tables⟩
  | ldk k v => exact h.loadKey (of_decide_eq_true hw) v
  | kclr => exact h.unloadKeys
  | _ => cases hn

theorem done (h : SameReadable s t) (i : Instr) : KeptByUpdates SameReadable i s t := by
  intro hw hn hno
  cases hr : t.ready with
  | true =>
    have heq := h.eq_withKeys (h.checks.ready.trans hr)
    rw [heq] at h ⊢
    exact h.done_ready hr hw hno
  | false =>
    have hcontrol : needsReady i = false := by
      by_contra hneeds
      simp [hn (Bool.eq_true_of_not_eq_false hneeds)] at hr
    have heq := h.eq_withUnread
    rw [heq] at h ⊢
    exact h.done_control hcontrol hw hr

/-- The host sees and removes the same. -/
theorem runAction (h : SameReadable s t) (a : HostAction) :
    NextRelated SameReadable (runAction a s) (runAction a t) := by
  cases a with
  | command w => exact runWord_related h.checks h h.raise h.done w
  | reset =>
    refine ⟨_, _, rfl, rfl, ?_, fun n hn => ?_, fun hr => (nomatch hr)⟩
    · rw [h.eq_withUnread]; rfl
    · rfl
  | readStatus =>
    refine ⟨_, _, rfl, rfl, ?_, h.keys, h.tables⟩
    rw [h.eq_withUnread]; rfl
  | readErrcmd =>
    refine ⟨_, _, rfl, rfl, ?_, h.keys, h.tables⟩
    rw [h.eq_withUnread]; rfl
  | popOut =>
    refine ⟨_, _, rfl, rfl, ?_⟩
    have hq : s.outq = t.outq := by rw [h.eq_withUnread]
    have hseen : s.seen = t.seen := by rw [h.eq_withUnread]
    rcases s.hostPop_cases with ⟨hs, hpop⟩ | ⟨w, rest, hs, hpop⟩
    · rwa [hpop, State.hostPop, ← hq, hs]
    · rw [hpop, State.hostPop, ← hq, hs, ← hseen]
      refine ⟨?_, h.keys, h.tables⟩
      exact congrArg (fun u : State => { u with outq := rest, seen := s.seen ++ [HostSeen.word w] }) h.frame

end SameReadable

/-- Settles O20: both units carry out the same action; its checks, its update and what the host gets depend on loaded
keys and on the tables of a ready unit alone. -/
theorem unreadableStateIsNeverSeen : Obligations.UnreadableStateIsNeverSeen := by
  intro s t h
  have hin : s.input = t.input := by rw [h.eq_withUnread]
  rcases step_cases t with ⟨ht, he⟩ | ⟨a, rest, ht, he⟩
  · refine ⟨s, t, ?_, he, h⟩
    rcases step_cases s with ⟨_, hs⟩ | ⟨_, _, hs, _⟩
    · exact hs
    · rw [hin, ht] at hs; cases hs
  · rw [he, step_of_input (hin.trans ht)]
    have hrest : SameReadable { s with input := rest } { t with input := rest } :=
      ⟨congrArg (fun u : State => { u with input := rest }) h.frame, h.keys, h.tables⟩
    exact hrest.runAction a

/-! ## The actions still to come (R144) -/

/-- `s` is `t` but for the host's actions still to come, which are `l`. -/
def OnlyInput (l : List HostAction) (s t : State) : Prop := s = { t with input := l }

theorem OnlyInput.done {l : List HostAction} {s t : State} (h : OnlyInput l s t) (i : Instr) :
    OnlyInput l (done i s) (done i t) := by
  subst h
  cases i with
  | init => simp only [Machine.done]; split <;> rfl
  | _ => rfl

/-- A word runs alike whatever actions wait. -/
theorem runWord_withInput {w : Word} {s t : State} (h : runWord w s = .next t) (l : List HostAction) :
    runWord w { s with input := l } = .next { t with input := l } := by
  have hself : OnlyInput l { s with input := l } s := rfl
  obtain ⟨u, t', hu, ht, rfl⟩ := runWord_related (s := { s with input := l }) (t := s) (R := OnlyInput l)
    ⟨rfl, rfl, rfl, rfl⟩ hself (fun _ _ => rfl) (fun i _ _ _ => hself.done i) w
  rw [h] at ht
  cases ht
  exact hu

/-! ## Runs (R149) -/

/-- A program's run, word by word, as the host presents it. -/
theorem runSteps_withProgram (ws : List Word) (s : State) :
    runSteps ws.length (s.withProgram ws) = runProgram ws (s.withProgram []) := by
  induction ws generalizing s with
  | nil => rfl
  | cons w ws ih =>
    obtain ⟨t, ht⟩ := runWord_goesOn w s
    have hstep : step (s.withProgram (w :: ws)) = .next (t.withProgram ws) :=
      (step_withProgram s w ws).trans (runWord_withInput ht _)
    have hword : runWord w (s.withProgram []) = .next (t.withProgram []) := runWord_withInput ht _
    rw [List.length_cons, runSteps_succ hstep, runProgram_cons hword]
    exact ih t

/-- A program's run goes on, and only appends the words it emits to `OUTQ`. -/
theorem runProgram_emits (ws : List Word) (s : State) :
    ∃ t es, runProgram ws s = .next t ∧ t.input = s.input ∧ t.seen = s.seen ∧ t.outq = s.outq ++ es := by
  induction ws generalizing s with
  | nil => exact ⟨s, [], rfl, rfl, rfl, (List.append_nil _).symm⟩
  | cons w ws ih =>
    obtain ⟨u, hu⟩ := runWord_goesOn w s
    obtain ⟨es, hq, hs, hin⟩ := (runWord_effect hu).command_emits
    obtain ⟨t, fs, ht, hin', hs', hq'⟩ := ih u
    exact ⟨t, es ++ fs, by rw [runProgram_cons hu, ht], hin'.trans hin, hs'.trans hs, by
      rw [hq', hq, List.append_assoc]⟩

theorem runProgram_append {vs : List Word} {s t : State} (h : runProgram vs s = .next t) (ws : List Word) :
    runProgram (vs ++ ws) s = runProgram ws t := by
  induction vs generalizing s with
  | nil => cases h; rfl
  | cons v vs ih =>
    obtain ⟨u, hu⟩ := runWord_goesOn v s
    rw [runProgram_cons hu] at h
    rw [List.cons_append, runProgram_cons hu, ih h]

theorem runProgram_faulted {s : State} (hf : s.fault = true) (ws : List Word) : runProgram ws s = .next s := by
  induction ws with
  | nil => rfl
  | cons w ws ih => rw [runProgram_cons (runWord_faulted hf w), ih]

/-- What is observed of a run is what it has emitted (R149). -/
theorem State.observe_emitted {s t : State} {es : List Word} (h : t.emitted = s.emitted ++ es) :
    (s.observe t).emitted = es := by
  rw [State.observe, State.emittedSince, h, List.drop_left]

/-- An observation sees the registers, the fault record and what has been emitted, which the host's reading and
removing leave. -/
theorem State.observe_hostAction (start : State) {s t : State} {a : HostAction}
    (ha : a = .readStatus ∨ a = .readErrcmd ∨ a = .popOut) (h : runAction a s = .next t) :
    start.observe t = start.observe s := by
  have hframe : t.emitted = s.emitted ∧ ∃ q e, t = { s with outq := q, seen := e } := by
    rcases ha with rfl | rfl | rfl <;> cases h
    · exact ⟨s.emitted_hostReadStatus, _, _, rfl⟩
    · exact ⟨s.emitted_hostReadErrcmd, _, _, rfl⟩
    · refine ⟨s.emitted_hostPop, ?_⟩
      rcases s.hostPop_cases with ⟨_, hpop⟩ | ⟨_, _, _, hpop⟩
      · exact ⟨_, _, hpop⟩
      · exact ⟨_, _, hpop⟩
  obtain ⟨hemitted, q, e, rfl⟩ := hframe
  rw [State.observe, State.emittedSince, hemitted]
  rfl

/-- Settles O60: the run word by word, by induction on the program. -/
theorem runsShowTheWordsTheyEmit : Obligations.RunsShowTheWordsTheyEmit := by
  refine ⟨runSteps_withProgram, fun ws s => ?goesOn, fun vs ws s t u hvs hws => ?append,
    fun start s t a ha h => start.observe_hostAction ha h, fun ws s hs => ?faulted⟩
  case goesOn =>
    obtain ⟨t, es, ht, hin, hseen, hq⟩ := runProgram_emits ws s
    have hemitted := State.emitted_append hq hseen
    rw [← State.observe_emitted hemitted] at hq hemitted
    exact ⟨t, ht, hin, by rw [State.taken, State.taken, hseen], hq, hemitted⟩
  case append =>
    refine ⟨(runProgram_append hvs ws).trans hws, ?_⟩
    obtain ⟨t', es, ht, _, hseen, hq⟩ := runProgram_emits vs s
    obtain ⟨u', fs, hu, _, hseen', hq'⟩ := runProgram_emits ws t
    rw [hvs] at ht
    cases ht
    rw [hws] at hu
    cases hu
    have hfirst := State.emitted_append hq hseen
    have hsecond := State.emitted_append hq' hseen'
    rw [State.observe_emitted hfirst, State.observe_emitted hsecond]
    exact State.observe_emitted (by rw [hsecond, hfirst, List.append_assoc])
  case faulted => exact runProgram_faulted (Bool.eq_true_of_not_eq_false hs) ws

end Sys2Proof.Machine

/-! SUPPORT. The rows of the probability tables (R105 to R108) and the commands that stream one: `LROW`, `DROW` (R112,
R113). -/

namespace Sys2Proof

/-- The word of a command with operand `rs1` and a format. -/
theorem packR_sf (op : BitVec 8) (rs1 : DReg) (f : Fmt) :
    packR op 0 (fieldOf rs1) 0 f.bit = place 32 op 24 ||| Machine.at32 rs1 16 ||| f.bit.setWidth 32 := by
  simp [packR, place_fieldOf, place_bit]

end Sys2Proof

namespace Sys2Proof.Machine

/-! ## The words of a row (R108) -/

/-- The stored entries of row `a`: the output masks or differences whose entry is not 0, ascending (R105, R108). -/
def storedEntries (v : Variant) (sp : Block → Block) (pa : Block → Bool) (a : Block) : List Block :=
  blocks.filter fun b => entryOf v sp pa a b ≠ 0

section Row

variable (v : Variant) (f : Fmt) (sp : Block → Block) (pa : Block → Bool) (a : Block)

theorem mem_storedEntries (b : Block) : b ∈ storedEntries v sp pa a ↔ entryOf v sp pa a b ≠ 0 := by
  simp [storedEntries]

theorem storedEntries_ascending : (storedEntries v sp pa a).Pairwise fun b c => b.toNat < c.toNat :=
  blocks_ascending.filter _

/-- Entries that are 0 put no words in a row. -/
theorem flatMap_entryWords (bs : List Block) :
    (bs.flatMap fun b => entryWords v f b (entryOf v sp pa a b)) =
      (bs.filter fun b => entryOf v sp pa a b ≠ 0).flatMap fun b =>
        [b.setWidth 32, valueOf v f (entryOf v sp pa a b)] := by
  induction bs with
  | nil => rfl
  | cons b bs ih =>
    rw [List.flatMap_cons, ih, entryWords]
    by_cases h : entryOf v sp pa a b = 0
    · simp [h]
    · simp [h]

theorem row_eq_stored : row v f sp pa a =
    rowHeader v f a :: (storedEntries v sp pa a).flatMap (fun b =>
      [b.setWidth 32, valueOf v f (entryOf v sp pa a b)]) ++ [0xFFFFFFFF] := by
  rw [row, flatMap_entryWords]
  rfl

/-- Two words for each stored entry, and the header and the end. -/
theorem length_row : (row v f sp pa a).length = 2 + 2 * (storedEntries v sp pa a).length := by
  have hpairs : ∀ bs : List Block,
      (bs.flatMap fun b => [b.setWidth 32, valueOf v f (entryOf v sp pa a b)]).length = bs.length * 2 := by
    simp [List.length_flatMap]
  rw [row_eq_stored, List.length_append, List.length_cons, hpairs, List.length_singleton]
  omega

/-- The fields of a header do not meet. -/
theorem toNat_rowHeader :
    (rowHeader v f a).toNat = 2 ^ 31 + v.bit.toNat * 2 ^ 17 + f.bit.toNat * 2 ^ 16 + a.toNat := by
  have htop : (0x80000000 : Word) = place 32 1#1 31 := rfl
  have ha : (place 32 a 0).toNat = a.toNat := toNat_place_zero a (by decide)
  have hf : (place 32 f.bit 16 ||| place 32 a 0).toNat = 2 ^ 16 * f.bit.toNat + a.toNat := by
    rw [toNat_place_or f.bit (by decide) (by omega), ha]
  have hv : (place 32 v.bit 17 ||| (place 32 f.bit 16 ||| place 32 a 0)).toNat =
      2 ^ 17 * v.bit.toNat + (2 ^ 16 * f.bit.toNat + a.toNat) := by
    rw [toNat_place_or v.bit (by decide) (by omega), hf]
  rw [rowHeader, htop, BitVec.or_assoc, BitVec.or_assoc, toNat_place_or 1#1 (by decide) (by omega), hv]
  simp only [BitVec.toNat_ofNat]
  omega

end Row

/-- Settles O57: the list is that of the stored entries. -/
theorem rowsListStoredEntriesInOrder : Obligations.RowsListStoredEntriesInOrder := by
  refine fun v f sp pa a => ⟨storedEntries v sp pa a, mem_storedEntries v sp pa a, storedEntries_ascending v sp pa a,
    row_eq_stored v f sp pa a, length_row v f sp pa a, toNat_rowHeader v f a, fun b => ?linear,
    fun b => toNat_valueOf_differential_raw (dc_le sp a b), fun b => ?bit, by decide⟩
  case linear =>
    obtain ⟨hlow, hhigh⟩ := lc_bounds sp a b pa
    exact toInt_valueOf_linear_raw hlow hhigh
  case bit => simp

/-! ## Rows under valid parameters -/

theorem exists_entryOf_ne_zero {p : Params} (h : ConfigValid p) (v : Variant) (a : Block) :
    ∃ b, entryOf v (spf p) par a b ≠ 0 := by
  cases v with
  | linear => exact exists_lc_ne_zero a (spf_bijective h)
  | differential =>
    obtain ⟨b, hb⟩ := exists_dc_ne_zero (spf p) a
    exact ⟨b, Int.natCast_ne_zero.2 hb⟩

/-- Settles O58: a row has a stored entry, and at most all blocks. -/
theorem noRowIsEmpty : Obligations.NoRowIsEmpty := by
  intro p v a h
  obtain ⟨b, hb⟩ := exists_entryOf_ne_zero h v a
  refine ⟨⟨b, hb⟩, fun f => ?_⟩
  have hpos : 0 < (storedEntries v (spf p) par a).length :=
    List.length_pos_of_mem ((mem_storedEntries v (spf p) par a b).2 hb)
  have hall : (storedEntries v (spf p) par a).length ≤ 65536 := by
    simpa [storedEntries] using List.length_filter_le (fun b => decide (entryOf v (spf p) par a b ≠ 0)) blocks
  rw [length_row]
  omega

/-- Settles O59: the products over the four nibbles, the highest first. -/
theorem tableEntriesFactorByNibble : Obligations.TableEntriesFactorByNibble := by
  intro p a b h
  have hthree : (3 : Fin 4).val = 3 := rfl
  simp only [lc_eq_prod_lat h, dc_eq_prod_ddt h, Fin.prod_univ_four, Fin.val_zero, Fin.val_one, Fin.val_two, hthree]
  exact ⟨by ring, by ring⟩

/-! ## The commands that stream a row (R112, R113) -/

section Frozen

variable {s : State} (ht : TablesFrozen s) (hr : s.ready = true) (v : Variant) (f : Fmt)
include ht hr

theorem TablesFrozen.rowWords_eq (a : Block) : s.rowWords v f a = row v f (spf s.params) par a := by
  rw [State.rowWords, ht.readSptab_eq hr, ht.readPartab_eq hr]

theorem TablesFrozen.row_zero : row v f (spf s.params) par 0 = [rowHeader v f 0, 0, valueOf v f 65536, 0xFFFFFFFF] :=
  Machine.row_zero (ht.configValid hr) v f

end Frozen

/-- Settles O44: `LROW` of a ready unit emits the linear row of its source alone, for the zero mask that of its one
entry. -/
theorem lrowStreamsOneLinearRow : Obligations.LrowStreamsOneLinearRow := by
  refine ⟨packR_sf 0x32, wordsOf_of_opcode fun i hi => ?words, fun s rs1 f hf hr ht => ?row,
    fun s rs1 f hf => faults_notReady rfl hf rfl⟩
  case words =>
    cases i with
    | lrow rs1 f => exact ⟨rs1, f, rfl⟩
    | _ => cases hi
  case row =>
    rw [← ht.rowWords_eq hr]
    refine ⟨_, exec_ready rfl hf hr, .emit s _, fun hzero => ?_⟩
    rw [done, State.emit_outq, ht.rowWords_eq hr, hzero, ht.row_zero hr]
    cases f <;> rfl

/-- Settles O45: `DROW` of a ready unit emits the differential row of its source alone, for the zero difference that
of its one entry. -/
theorem drowStreamsOneDifferentialRow : Obligations.DrowStreamsOneDifferentialRow := by
  refine ⟨packR_sf 0x33, wordsOf_of_opcode fun i hi => ?words, fun s rs1 f hf hr ht => ?row,
    fun s rs1 f hf => faults_notReady rfl hf rfl⟩
  case words =>
    cases i with
    | drow rs1 f => exact ⟨rs1, f, rfl⟩
    | _ => cases hi
  case row =>
    rw [← ht.rowWords_eq hr]
    refine ⟨_, exec_ready rfl hf hr, .emit s _, fun hzero => ?_⟩
    rw [done, State.emit_outq, ht.rowWords_eq hr, hzero, ht.row_zero hr]
    cases f <;> rfl

end Sys2Proof.Machine

/-! SUPPORT. Assembler text (R60, R61): the line of a mnemonic and its operands is cut at its blanks and commas into
the same mnemonic and operands. -/

namespace Sys2Proof.Machine

/-! ## Plain text -/

/-- No cut of a line is made at this character. -/
def plainChar (c : Char) : Bool := !isBlank c && c != ',' && c != ';'

theorem plainChar_iff {c : Char} : plainChar c = true ↔ isBlank c = false ∧ c ≠ ',' ∧ c ≠ ';' := by
  simp [plainChar, and_assoc]

/-- A part of a line: not empty, and no cut is made in it. -/
structure PlainText (cs : List Char) : Prop where
  nonempty : cs ≠ []
  plain : ∀ c ∈ cs, plainChar c = true

/-- Neither end is a blank. -/
structure Trimmed (cs : List Char) : Prop where
  head : ∀ c ∈ cs.head?, isBlank c = false
  last : ∀ c ∈ cs.getLast?, isBlank c = false

namespace PlainText

variable {cs : List Char}

/-- By evaluation. -/
theorem of_all (h : (!cs.isEmpty && cs.all plainChar) = true) : PlainText cs := by
  obtain ⟨hne, hall⟩ := Bool.and_eq_true_iff.1 h
  exact ⟨by simpa using hne, List.all_eq_true.1 hall⟩

variable (h : PlainText cs)
include h

theorem not_blank (c : Char) (hc : c ∈ cs) : isBlank c = false := (plainChar_iff.1 (h.plain c hc)).1

theorem not_comma (c : Char) (hc : c ∈ cs) : c ≠ ',' := (plainChar_iff.1 (h.plain c hc)).2.1

theorem not_semicolon (c : Char) (hc : c ∈ cs) : c ≠ ';' := (plainChar_iff.1 (h.plain c hc)).2.2

theorem trimmed : Trimmed cs :=
  ⟨fun c hc => h.not_blank c (List.mem_of_head? hc), fun c hc => h.not_blank c (List.mem_of_getLast? hc)⟩

end PlainText

/-- What stands between two parts does not matter. -/
theorem Trimmed.append {as bs : List Char} (ha : Trimmed as) (hb : Trimmed bs) (hna : as ≠ []) (hnb : bs ≠ [])
    (cs : List Char) : Trimmed (as ++ (cs ++ bs)) := by
  refine ⟨?_, ?_⟩
  · rw [List.head?_append_of_ne_nil _ hna]
    exact ha.head
  · rw [List.getLast?_append_of_ne_nil _ (List.append_ne_nil_of_right_ne_nil cs hnb),
      List.getLast?_append_of_ne_nil _ hnb]
    exact hb.last

theorem dropWhile_isBlank {cs : List Char} (h : ∀ c ∈ cs.head?, isBlank c = false) : cs.dropWhile isBlank = cs := by
  cases cs with
  | nil => rfl
  | cons c cs => simp [h c rfl]

theorem Trimmed.trimBlanks {cs : List Char} (h : Trimmed cs) : trimBlanks cs = cs := by
  rw [Machine.trimBlanks, dropWhile_isBlank h.head, dropWhile_isBlank, List.reverse_reverse]
  rw [List.head?_reverse]
  exact h.last

theorem trimBlanks_cons_space (cs : List Char) : trimBlanks (' ' :: cs) = trimBlanks cs := rfl

/-! ## Cutting at commas -/

section Commas

variable {cs p : List Char} {ps : List (List Char)}

theorem splitCommas_comma (h : splitCommas cs = p :: ps) : splitCommas (',' :: cs) = [] :: p :: ps := by
  rw [splitCommas, h]

theorem splitCommas_cons {c : Char} (hc : c ≠ ',') (h : splitCommas cs = p :: ps) :
    splitCommas (c :: cs) = (c :: p) :: ps := by
  rw [splitCommas, h]
  exact hc

/-- Text without commas stays with the part it precedes. -/
theorem splitCommas_append {o : List Char} (ho : ∀ c ∈ o, c ≠ ',') (h : splitCommas cs = p :: ps) :
    splitCommas (o ++ cs) = (o ++ p) :: ps := by
  induction o with
  | nil => exact h
  | cons c o ih =>
    obtain ⟨hc, ho⟩ := List.forall_mem_cons.1 ho
    exact splitCommas_cons hc (ih ho)

theorem splitCommas_plain {o : List Char} (ho : PlainText o) : splitCommas o = [o] := by
  induction o with
  | nil => exact absurd rfl ho.nonempty
  | cons c o ih =>
    have hc : c ≠ ',' := ho.not_comma c List.mem_cons_self
    by_cases hne : o = []
    · subst hne
      rw [splitCommas, splitCommas]
      exact hc
    · exact splitCommas_cons hc (ih ⟨hne, fun d hd => ho.plain d (List.mem_cons_of_mem c hd)⟩)

end Commas

/-! ## Operands in a line -/

theorem operandsText_cons_cons (o q : List Char) (os : List (List Char)) :
    operandsText (o :: q :: os) = o ++ ([',', ' '] ++ operandsText (q :: os)) := List.append_assoc ..

theorem operandsText_ne_nil {o : List Char} (ho : o ≠ []) (os : List (List Char)) : operandsText (o :: os) ≠ [] := by
  cases os with
  | nil => exact ho
  | cons q os => exact operandsText_cons_cons o q os ▸ List.append_ne_nil_of_left_ne_nil ho _

theorem trimmed_operandsText (o : List Char) (os : List (List Char)) (h : ∀ q ∈ o :: os, PlainText q) :
    Trimmed (operandsText (o :: os)) := by
  induction os generalizing o with
  | nil => exact (h o List.mem_cons_self).trimmed
  | cons q os ih =>
    obtain ⟨ho, hrest⟩ := List.forall_mem_cons.1 h
    obtain ⟨hq, _⟩ := List.forall_mem_cons.1 hrest
    rw [operandsText_cons_cons]
    exact ho.trimmed.append (ih q hrest) ho.nonempty (operandsText_ne_nil hq.nonempty os) _

/-- No comment starts among operands. -/
theorem not_mem_operandsText (os : List (List Char)) (h : ∀ q ∈ os, PlainText q) : ∀ c ∈ operandsText os, c ≠ ';' := by
  induction os with
  | nil => simp [operandsText]
  | cons o os ih =>
    obtain ⟨ho, hrest⟩ := List.forall_mem_cons.1 h
    cases os with
    | nil => exact ho.not_semicolon
    | cons q os =>
      rw [operandsText_cons_cons, List.forall_mem_append, List.forall_mem_append]
      exact ⟨ho.not_semicolon, by simp, ih hrest⟩

/-- Operands are cut apart again, each but the first with the blank before it. -/
theorem splitCommas_operandsText (o : List Char) (os : List (List Char)) (h : ∀ q ∈ o :: os, PlainText q) :
    splitCommas (operandsText (o :: os)) = o :: os.map (' ' :: ·) := by
  induction os generalizing o with
  | nil => exact splitCommas_plain (h o List.mem_cons_self)
  | cons q os ih =>
    obtain ⟨ho, hrest⟩ := List.forall_mem_cons.1 h
    have hspace : splitCommas (' ' :: operandsText (q :: os)) = (' ' :: q) :: os.map (' ' :: ·) :=
      splitCommas_cons (by decide) (ih q hrest)
    have hcut := splitCommas_append ho.not_comma (splitCommas_comma hspace)
    rw [List.append_nil] at hcut
    exact operandsText_cons_cons o q os ▸ hcut

/-- The operands of a line, as `assemble` finds them. -/
theorem trimBlanks_splitCommas (os : List (List Char)) (h : ∀ q ∈ os, PlainText q) :
    (splitCommas (trimBlanks (operandsText os))).map trimBlanks = os := by
  cases os with
  | nil => rfl
  | cons o os =>
    have hself : ∀ q ∈ o :: os, trimBlanks q = q := fun q hq => (h q hq).trimmed.trimBlanks
    obtain ⟨ho, hos⟩ := List.forall_mem_cons.1 hself
    rw [(trimmed_operandsText o os h).trimBlanks, splitCommas_operandsText o os h, List.map_cons, ho, List.map_map]
    congr 1
    exact (List.map_congr_left fun q hq => (trimBlanks_cons_space q).trans (hos q hq)).trans (List.map_id os)

/-! ## A line -/

section Line

variable {m : List Char} (hm : PlainText m)
include hm

/-- The first word of a line and what follows it. -/
theorem cut_lineText (os : List (List Char)) :
    (lineText m os).takeWhile (!isBlank ·) = m ∧
      trimBlanks ((lineText m os).dropWhile (!isBlank ·)) = trimBlanks (operandsText os) := by
  have hword : ∀ c ∈ m, (!isBlank c) = true := fun c hc => by simp [hm.not_blank c hc]
  cases os with
  | nil =>
    rw [lineText, List.takeWhile_eq_self_iff.2 hword, List.dropWhile_eq_nil_iff.2 hword]
    exact ⟨rfl, rfl⟩
  | cons o os =>
    rw [lineText, List.append_assoc, List.takeWhile_append_of_pos hword, List.dropWhile_append_of_pos hword]
    exact ⟨List.append_nil m, rfl⟩

/-- A line has no comment and no blanks at its ends. -/
theorem trimBlanks_lineText (os : List (List Char)) (hos : ∀ q ∈ os, PlainText q) :
    trimBlanks (withoutComment (lineText m os)) = lineText m os := by
  have hline : (∀ c ∈ lineText m os, c ≠ ';') ∧ Trimmed (lineText m os) := by
    cases os with
    | nil => exact ⟨hm.not_semicolon, hm.trimmed⟩
    | cons o os =>
      obtain ⟨ho, _⟩ := List.forall_mem_cons.1 hos
      rw [lineText, List.append_assoc, List.forall_mem_append, List.forall_mem_append]
      exact ⟨⟨hm.not_semicolon, by simp, not_mem_operandsText _ hos⟩,
        hm.trimmed.append (trimmed_operandsText o os hos) hm.nonempty (operandsText_ne_nil ho.nonempty os) _⟩
  obtain ⟨hcomment, htrimmed⟩ := hline
  rw [withoutComment, List.takeWhile_eq_self_iff.2 fun c hc => bne_iff_ne.2 (hcomment c hc), htrimmed.trimBlanks]

/-- Reading a line is reading each operand, and applying the mnemonic. -/
theorem assemble_lineText (os : List (List Char)) (hos : ∀ q ∈ os, PlainText q) :
    assemble (lineText m os) = (os.mapM parseOperand).bind (buildCommand m) := by
  obtain ⟨hfirst, hrest⟩ := cut_lineText hm os
  have hoperands : (splitCommas (trimBlanks (operandsText os))).mapM (fun o => parseOperand (trimBlanks o)) =
      os.mapM parseOperand := by
    conv_rhs => rw [← trimBlanks_splitCommas os hos, List.mapM_map]
    rfl
  rw [assemble, trimBlanks_lineText hm os hos]
  simp only [hfirst, hrest, hoperands]

end Line

/-! ## Registers, keys and immediates (R60) -/

/-- How an operand is written. -/
def Operand.text : Operand → List Char
  | .reg r => regText r
  | .key k => keyText k
  | .imm v => immText v

/-- A key index is written only when it is legal (R53). -/
def Operand.legal : Operand → Bool
  | .key k => KeyField.legal k
  | .reg _ => true
  | .imm _ => true

@[simp] theorem plainChar_hexDigit (v : Nibble) : plainChar (hexDigit v) = true := by
  revert v; decide

theorem hexValue_hexDigit : ∀ v : Nibble, hexValue (hexDigit v) = some v.toNat := by decide

/-- A block is the number of its four hexadecimal digits. -/
theorem toNat_eq_hexDigits (v : Block) :
    16 * (16 * (16 * (16 * 0 + (v.extractLsb' 12 4).toNat) + (v.extractLsb' 8 4).toNat) +
      (v.extractLsb' 4 4).toNat) + (v.extractLsb' 0 4).toNat = v.toNat := by
  simp only [BitVec.extractLsb'_toNat, Nat.shiftRight_eq_div_pow]
  omega

theorem parseImm_immText (v : Block) : parseImm (immText v) = some v := by
  simp only [immText, parseImm, digits, hexValue_hexDigit, Option.bind_some, toNat_eq_hexDigits]
  simp

theorem Operand.plainText (o : Operand) : PlainText o.text := by
  have hletters : ['x', 'k', '0'].all plainChar = true := rfl
  simp only [List.all_cons, List.all_nil, Bool.and_true, Bool.and_eq_true] at hletters
  cases o with
  | reg r => exact .of_all (by simp [text, regText, hletters])
  | key k => exact .of_all (by simp [text, keyText, hletters])
  | imm v => exact .of_all (by simp [text, immText, hletters])

theorem Operand.parse_text {o : Operand} (ho : o.legal = true) : parseOperand o.text = some o := by
  cases o with
  | reg r => revert r; decide
  | key k => revert k; decide
  | imm v =>
    have hread : parseOperand (immText v) = (parseImm (immText v)).map .imm := rfl
    rw [text, hread, parseImm_immText, Option.map_some]

theorem mapM_parse_text (os : List Operand) (hos : ∀ o ∈ os, o.legal = true) :
    (os.map Operand.text).mapM parseOperand = some os := by
  rw [List.mapM_map]
  induction os with
  | nil => rfl
  | cons o os ih =>
    obtain ⟨ho, hrest⟩ := List.forall_mem_cons.1 hos
    simp [Operand.parse_text ho, ih hrest]

/-- A line of a mnemonic and operands is read as the mnemonic applied to them. -/
theorem assemble_line {m : List Char} (hm : PlainText m) (os : List Operand) (hos : ∀ o ∈ os, o.legal = true) :
    assemble (lineText m (os.map Operand.text)) = buildCommand m os := by
  have hplain : ∀ q ∈ os.map Operand.text, PlainText q := List.forall_mem_map.2 fun o _ => o.plainText
  rw [assemble_lineText hm _ hplain, mapM_parse_text os hos, Option.bind_some]

/-! ## The lines of the commands -/

/-- The operands of a command in the order of R56. -/
def operandsOf : Instr → List Operand
  | .ldi rd imm => [.reg rd, .imm imm]
  | .ldk k imm => [.key k, .imm imm]
  | .rndk rd rs1 k => [.reg rd, .reg rs1, .key k]
  | .xor rd rs1 rs2 | .dot rd rs1 rs2 | .round rd rs1 rs2 | .decr rd rs1 rs2 => [.reg rd, .reg rs1, .reg rs2]
  | .sub rd rs1 | .isub rd rs1 | .perm rd rs1 | .sp rd rs1 | .par rd rs1 | .enc rd rs1 | .isp rd rs1 =>
    [.reg rd, .reg rs1]
  | .lent rs1 rs2 _ | .dent rs1 rs2 _ => [.reg rs1, .reg rs2]
  | .out rs1 | .lrow rs1 _ | .drow rs1 _ => [.reg rs1]
  | .init | .outa | .kclr | .ltab _ | .dtab _ => []

theorem operandTexts_eq (i : Instr) : operandTexts i = (operandsOf i).map Operand.text := by
  cases i <;> rfl

theorem operandsOf_legal {i : Instr} (hw : i.wf = true) : ∀ o ∈ operandsOf i, o.legal = true := by
  cases i with
  | ldk k imm => simpa [operandsOf, Operand.legal, Instr.wf] using hw
  | rndk rd rs1 k => simpa [operandsOf, Operand.legal, Instr.wf] using hw
  | _ => simp [operandsOf, Operand.legal]

theorem plainText_mnemonic (i : Instr) : PlainText (mnemonicText i) := by
  cases i with
  | lent _ _ f => cases f <;> exact .of_all rfl
  | dent _ _ f => cases f <;> exact .of_all rfl
  | lrow _ f => cases f <;> exact .of_all rfl
  | drow _ f => cases f <;> exact .of_all rfl
  | ltab f => cases f <;> exact .of_all rfl
  | dtab f => cases f <;> exact .of_all rfl
  | _ => exact .of_all rfl

theorem buildCommand_mnemonic (i : Instr) : buildCommand (mnemonicText i) (operandsOf i) = some i := by
  cases i with
  | lent _ _ f => cases f <;> rfl
  | dent _ _ f => cases f <;> rfl
  | lrow _ f => cases f <;> rfl
  | drow _ f => cases f <;> rfl
  | ltab f => cases f <;> rfl
  | dtab f => cases f <;> rfl
  | _ => rfl

/-- Settles O6: a line is cut into its mnemonic and operands, each of which reads back. -/
theorem assemblerTextReadsBack : Obligations.AssemblerTextReadsBack := by
  refine ⟨fun i hw => ?command, fun rd => ?clr, fun rd rs1 rs2 m hm => ?xor⟩
  case command =>
    rw [assemblyLine, operandTexts_eq, assemble_line (plainText_mnemonic i) _ (operandsOf_legal hw),
      buildCommand_mnemonic]
  case clr =>
    exact assemble_line (m := "CLR".toList) (.of_all rfl) [.reg rd] (by simp [Operand.legal])
  case xor =>
    have hread : ∀ m : List Char, PlainText m →
        assemble (lineText m [regText rd, regText rs1, regText rs2]) = buildDSS m rd rs1 rs2 :=
      fun m hm => assemble_line hm [.reg rd, .reg rs1, .reg rs2] (by simp [Operand.legal])
    simp only [List.mem_cons, List.not_mem_nil, or_false] at hm
    rcases hm with rfl | rfl
    · rw [hread _ (.of_all rfl)]; rfl
    · rw [hread _ (.of_all rfl)]; rfl

end Sys2Proof.Machine

/-! SUPPORT. `f32` is the nearest binary32 number, ties to even (R107): the values of all patterns on one grid, and the
rounding of the significand. -/

namespace Sys2Proof.Machine

/-! ## The value of a pattern -/

/-- `f32Value` of the number of a pattern. -/
def patternValue (n : Nat) : ℚ :=
  if n / 2 ^ 23 = 0 then (n % 2 ^ 23 : Nat) * (2 : ℚ) ^ (-149 : ℤ)
  else (2 ^ 23 + (n % 2 ^ 23 : Nat) : ℚ) * (2 : ℚ) ^ (((n / 2 ^ 23 : Nat) : ℤ) - 150)

theorem f32Value_eq (w : Word) : f32Value w = patternValue w.toNat := rfl

/-- The unit of the last place of a pattern with exponent field `e`. -/
def ulp (e : Nat) : ℚ := (2 : ℚ) ^ ((e : ℤ) - 150)

theorem ulp_pos (e : Nat) : 0 < ulp e := zpow_pos two_pos _

theorem ulp_add (e d : Nat) : ulp (e + d) = 2 ^ d * ulp e := by
  rw [ulp, ulp, ← zpow_natCast, ← zpow_add₀ two_ne_zero]
  congr 1
  push_cast
  ring

/-- A pattern with a positive exponent field `e` is its significand, from `2^23` to `2^24`, in units of the last
place; at `2^24` it is the first pattern of the next exponent. -/
theorem patternValue_of_significand {n e m : Nat} (he : 1 ≤ e) (hlow : 2 ^ 23 ≤ m) (hhigh : m ≤ 2 ^ 24)
    (hn : n + 2 ^ 23 = 2 ^ 23 * e + m) : patternValue n = m * ulp e := by
  rcases hhigh.lt_or_eq with hlt | rfl
  · obtain ⟨hexp, hfrac⟩ : n / 2 ^ 23 = e ∧ n % 2 ^ 23 = m - 2 ^ 23 := by omega
    rw [patternValue, hexp, hfrac, if_neg (by omega), Nat.cast_sub hlow, ulp]
    push_cast
    ring
  · obtain ⟨hexp, hfrac⟩ : n / 2 ^ 23 = e + 1 ∧ n % 2 ^ 23 = 0 := by omega
    rw [patternValue, hexp, hfrac, if_neg (by omega), ← ulp, ulp_add]
    push_cast
    ring

/-- Subnormal patterns stand on the grid of exponent field 1. -/
theorem patternValue_of_subnormal {n : Nat} (hn : n < 2 ^ 23) : patternValue n = n * ulp 1 := by
  obtain ⟨hexp, hfrac⟩ : n / 2 ^ 23 = 0 ∧ n % 2 ^ 23 = n := by omega
  rw [patternValue, hexp, hfrac, if_pos rfl]
  rfl

/-- The next pattern is one unit of the last place away. -/
theorem patternValue_lt_succ (n : Nat) : patternValue n < patternValue (n + 1) := by
  by_cases hsub : n < 2 ^ 23
  · have hnext : patternValue (n + 1) = ((n + 1 : Nat) : ℚ) * ulp 1 := by
      rcases (Nat.succ_le_of_lt hsub).lt_or_eq with hlt | heq
      · exact patternValue_of_subnormal hlt
      · exact patternValue_of_significand le_rfl (by omega) (by omega) (by omega)
    rw [patternValue_of_subnormal hsub, hnext]
    exact mul_lt_mul_of_pos_right (by exact_mod_cast n.lt_succ_self) (ulp_pos 1)
  · have hsplit := Nat.div_add_mod n (2 ^ 23)
    have hmod := Nat.mod_lt n (Nat.two_pow_pos 23)
    rw [patternValue_of_significand (n := n) (e := n / 2 ^ 23) (m := 2 ^ 23 + n % 2 ^ 23) (by omega) (by omega)
        (by omega) (by omega),
      patternValue_of_significand (n := n + 1) (e := n / 2 ^ 23) (m := 2 ^ 23 + n % 2 ^ 23 + 1) (by omega) (by omega)
        (by omega) (by omega)]
    exact mul_lt_mul_of_pos_right (by exact_mod_cast Nat.lt_succ_self _) (ulp_pos _)

/-- Patterns stand in the order of their numbers. -/
theorem patternValue_strictMono : StrictMono patternValue := strictMono_nat_of_lt_succ patternValue_lt_succ

/-- Patterns from exponent field `e` on stand on the grid of its unit. -/
theorem exists_patternValue_eq {n e : Nat} (he : 1 ≤ e) (hn : 2 ^ 23 * e ≤ n) :
    ∃ m : Nat, patternValue n = m * ulp e := by
  have hsplit := Nat.div_add_mod n (2 ^ 23)
  have hmod := Nat.mod_lt n (Nat.two_pow_pos 23)
  obtain ⟨d, hd⟩ := Nat.exists_eq_add_of_le (show e ≤ n / 2 ^ 23 by omega)
  refine ⟨(2 ^ 23 + n % 2 ^ 23) * 2 ^ d, ?_⟩
  rw [patternValue_of_significand (n := n) (e := e + d) (m := 2 ^ 23 + n % 2 ^ 23) (by omega) (by omega) (by omega)
    (by omega), ulp_add]
  push_cast
  ring

/-! ## The rounded significand -/

section Rounding

variable {num : Nat} (h0 : num ≠ 0)
include h0

theorem f32Floor_bounds : 2 ^ 23 ≤ f32Floor num ∧ f32Floor num < 2 ^ 24 := by
  have hpos : 0 < 2 ^ num.log2 := Nat.two_pow_pos _
  rw [f32Floor, Nat.le_div_iff_mul_le hpos, Nat.div_lt_iff_lt_mul hpos]
  have hlow : 2 ^ num.log2 ≤ num := Nat.log2_self_le h0
  have hhigh : num < 2 ^ (num.log2 + 1) := Nat.lt_log2_self
  omega

theorem f32Rounded_range : 2 ^ 23 ≤ f32Rounded num ∧ f32Rounded num ≤ 2 ^ 24 := by
  have hfloor := f32Floor_bounds h0
  rw [f32Rounded]
  split <;> omega

/-- The fields of `f32`: the exponent field `log2 num + 127 - k`, and the rounded significand above `2^23`, which
carries into the exponent when it is `2^24`. -/
theorem toNat_f32_add {k : Nat} (hlog : num.log2 ≤ k) (hk : k ≤ 32) :
    (f32 num k).toNat + 2 ^ 23 = 2 ^ 23 * (num.log2 + 127 - k) + f32Rounded num := by
  obtain ⟨hlow, hhigh⟩ := f32Rounded_range h0
  have hshift : ∀ e < 256, (BitVec.ofNat 32 e <<< 23).toNat = 2 ^ 23 * e := by
    intro e he
    rw [BitVec.toNat_shiftLeft, BitVec.toNat_ofNat, Nat.shiftLeft_eq]
    omega
  rw [f32, if_neg h0]
  split
  next hcarry => rw [hshift _ (by omega)]; omega
  next hcarry =>
    have hfrac : (BitVec.ofNat 32 (f32Rounded num - 2 ^ 23)).toNat = f32Rounded num - 2 ^ 23 := by
      rw [BitVec.toNat_ofNat]
      omega
    rw [BitVec.toNat_or, hshift _ (by omega), hfrac, ← Nat.two_pow_add_eq_or_of_lt (by omega)]
    omega

end Rounding

/-- Rounding moves `num * 2^23 / 2^(log2 num)` by at most one half, and by one half only to an even significand. -/
theorem f32Rounded_near (num : Nat) :
    2 * |(f32Rounded num * 2 ^ num.log2 - num * 2 ^ 23 : ℤ)| ≤ 2 ^ num.log2 ∧
      (2 * |(f32Rounded num * 2 ^ num.log2 - num * 2 ^ 23 : ℤ)| = 2 ^ num.log2 → f32Rounded num % 2 = 0) := by
  have hsplit : (num * 2 ^ 23 : ℤ) = f32Floor num * 2 ^ num.log2 + f32Rem num := by
    exact_mod_cast (Nat.div_add_mod' (num * 2 ^ 23) (2 ^ num.log2)).symm
  have hrem : f32Rem num < 2 ^ num.log2 := Nat.mod_lt _ (Nat.two_pow_pos _)
  have hup : f32RoundsUp num = true ↔
      2 ^ num.log2 < 2 * f32Rem num ∨ (2 * f32Rem num = 2 ^ num.log2 ∧ f32Floor num % 2 = 1) := by
    simp [f32RoundsUp]
  have hcast : (2 : ℤ) ^ num.log2 = (2 ^ num.log2 : Nat) := by push_cast; rfl
  rw [hsplit, f32Rounded, hcast]
  split
  next h =>
    have hgap : ((f32Floor num + 1 : Nat) * (2 ^ num.log2 : Nat) -
        (f32Floor num * (2 ^ num.log2 : Nat) + f32Rem num) : ℤ) = (2 ^ num.log2 : Nat) - f32Rem num := by
      push_cast
      ring
    rw [hgap, abs_of_pos (by omega)]
    rw [hup] at h
    omega
  next h =>
    have hgap : (f32Floor num * (2 ^ num.log2 : Nat) - (f32Floor num * (2 ^ num.log2 : Nat) + f32Rem num) : ℤ) =
        -f32Rem num := by ring
    rw [hgap, abs_neg, Nat.abs_cast]
    rw [hup] at h
    omega

/-- A grid point at most one half of the grid's step `p` from `a` is nearest to it, and another is as near only when
both are one half away. -/
theorem nearest_of_half {m a p : ℤ} (h : 2 * |m * p - a| ≤ p) (n : ℤ) :
    |m * p - a| ≤ |n * p - a| ∧ (|m * p - a| = |n * p - a| → n ≠ m → 2 * |m * p - a| = p) := by
  by_cases hnm : n = m
  · exact ⟨by rw [hnm], fun _ hne => absurd hnm hne⟩
  · have hp : 0 ≤ p := le_trans (by positivity) h
    have hstep : p ≤ |n * p - m * p| := by
      have hone : 1 ≤ |n - m| := Int.one_le_abs (sub_ne_zero.2 hnm)
      rw [← sub_mul, abs_mul, abs_of_nonneg hp]
      exact le_mul_of_one_le_left hp hone
    have htriangle := abs_sub_le (n * p) a (m * p)
    rw [abs_sub_comm a] at htriangle
    exact ⟨by linarith, fun heq _ => by linarith⟩

/-! ## The nearest number -/

section Nearest

variable {num k : Nat} (h0 : num ≠ 0) (hlog : num.log2 ≤ k) (hk : k ≤ 32)

/-- The probability in units of `2^(-k-23)`. -/
theorem prob_eq (num k : Nat) : (num : ℚ) / 2 ^ k = num * (2 ^ 23 * (2 : ℚ) ^ (-(k : ℤ) - 23)) := by
  rw [zpow_sub₀ two_ne_zero, zpow_neg, zpow_natCast, zpow_ofNat]
  field_simp

include hk

/-- The step of the grid in units of `2^(-k-23)`. -/
theorem ulp_eq : ulp (num.log2 + 127 - k) = 2 ^ num.log2 * (2 : ℚ) ^ (-(k : ℤ) - 23) := by
  rw [ulp, ← zpow_natCast, ← zpow_add₀ two_ne_zero]
  congr 1
  omega

/-- How far a grid point is from the probability. -/
theorem grid_sub (m : Nat) : (m : ℚ) * ulp (num.log2 + 127 - k) - num / 2 ^ k =
    (m * 2 ^ num.log2 - num * 2 ^ 23 : ℤ) * (2 : ℚ) ^ (-(k : ℤ) - 23) := by
  rw [ulp_eq hk, prob_eq]
  push_cast
  ring

/-- Of all grid points the rounded significand is nearest, and it is even when another is as near. -/
theorem f32Rounded_nearest (m : Nat) :
    |(f32Rounded num : ℚ) * ulp (num.log2 + 127 - k) - num / 2 ^ k| ≤ |m * ulp (num.log2 + 127 - k) - num / 2 ^ k| ∧
      (|(f32Rounded num : ℚ) * ulp (num.log2 + 127 - k) - num / 2 ^ k| =
        |m * ulp (num.log2 + 127 - k) - num / 2 ^ k| → m ≠ f32Rounded num → f32Rounded num % 2 = 0) := by
  obtain ⟨hhalf, htie⟩ := f32Rounded_near num
  obtain ⟨hnear, hequal⟩ := nearest_of_half hhalf m
  have hcell : 0 < (2 : ℚ) ^ (-(k : ℤ) - 23) := zpow_pos two_pos _
  rw [grid_sub hk, grid_sub hk, abs_mul, abs_mul, mul_le_mul_iff_left₀ (abs_pos.2 hcell.ne'),
    mul_left_inj' (abs_pos.2 hcell.ne').ne']
  exact ⟨by exact_mod_cast hnear, fun heq hne => htie (hequal (by exact_mod_cast heq) (by exact_mod_cast hne))⟩

include h0

/-- The probability is not below the grid's first normal point. -/
theorem grid_le : 2 ^ 23 * ulp (num.log2 + 127 - k) ≤ num / 2 ^ k := by
  have hself : (2 ^ num.log2 : ℚ) ≤ num := by exact_mod_cast Nat.log2_self_le h0
  have hcell : 0 ≤ 2 ^ 23 * (2 : ℚ) ^ (-(k : ℤ) - 23) := by positivity
  rw [ulp_eq hk, prob_eq, mul_left_comm]
  exact mul_le_mul_of_nonneg_right hself hcell

include hlog

theorem patternValue_f32 : patternValue (f32 num k).toNat = f32Rounded num * ulp (num.log2 + 127 - k) := by
  obtain ⟨hlow, hhigh⟩ := f32Rounded_range h0
  exact patternValue_of_significand (by omega) hlow hhigh (toNat_f32_add h0 hlog hk)

/-- Of all patterns that of `f32` is nearest: those from its exponent on stand on its grid, and those below stand
before the grid's first normal point, which is nearer. -/
theorem f32_nearest (n : Nat) :
    |patternValue (f32 num k).toNat - num / 2 ^ k| ≤ |patternValue n - num / 2 ^ k| ∧
      (|patternValue (f32 num k).toNat - num / 2 ^ k| = |patternValue n - num / 2 ^ k| →
        n ≠ (f32 num k).toNat → (f32 num k).toNat % 2 = 0) := by
  have hvalue := patternValue_f32 h0 hlog hk
  by_cases hn : 2 ^ 23 * (num.log2 + 127 - k) ≤ n
  · obtain ⟨m, hm⟩ := exists_patternValue_eq (by omega) hn
    obtain ⟨hnear, hequal⟩ := f32Rounded_nearest hk m
    rw [hvalue, hm]
    refine ⟨hnear, fun heq hne => ?_⟩
    have hm_ne : m ≠ f32Rounded num := by
      rintro rfl
      exact hne (patternValue_strictMono.injective (hm.trans hvalue.symm))
    have heven := hequal heq hm_ne
    have hword := toNat_f32_add h0 hlog hk
    omega
  · have hfirst : patternValue (2 ^ 23 * (num.log2 + 127 - k)) = (2 ^ 23 : Nat) * ulp (num.log2 + 127 - k) :=
      patternValue_of_significand (by omega) le_rfl (by omega) rfl
    have hbelow := patternValue_strictMono (not_le.1 hn)
    have hprob := grid_le h0 hk
    obtain ⟨hnear, _⟩ := f32Rounded_nearest (num := num) hk (2 ^ 23)
    rw [hfirst] at hbelow
    push_cast at hbelow hnear
    have hcloser : |2 ^ 23 * ulp (num.log2 + 127 - k) - num / 2 ^ k| < |patternValue n - num / 2 ^ k| := by
      rw [abs_sub_comm, abs_of_nonneg (by linarith), abs_sub_comm, abs_of_pos (by linarith)]
      linarith
    rw [hvalue]
    exact ⟨by linarith, fun heq => by linarith⟩

end Nearest

/-- Settles O56: the rounded significand is nearest on the grid of its exponent, and the patterns below that grid are
farther. -/
theorem floatingValueIsNearestEven : Obligations.FloatingValueIsNearestEven := by
  intro num k hnum hk
  by_cases h0 : num = 0
  · subst h0
    have hzero : f32 0 k = 0 := rfl
    have hvalue : f32Value 0 = 0 := by simp [f32Value]
    rw [hzero, hvalue]
    refine ⟨by unfold FiniteF32; decide, by simp, by simp, fun w _ => ⟨by simp, fun _ _ => rfl⟩⟩
  · have hlog : num.log2 ≤ k :=
      Nat.lt_succ_iff.1 ((Nat.log2_lt h0).2 (lt_of_le_of_lt hnum (Nat.pow_lt_pow_right one_lt_two k.lt_succ_self)))
    obtain ⟨hlow, hhigh⟩ := f32Rounded_range h0
    have hword := toNat_f32_add h0 hlog hk
    have hnormal : 2 ^ 23 ≤ (f32 num k).toNat := by omega
    refine ⟨by unfold FiniteF32; omega, ⟨fun hzero => ?_, fun h => absurd h h0⟩, fun _ => hnormal, fun w _ => ?_⟩
    · rw [hzero] at hnormal
      exact absurd hnormal (by decide)
    · obtain ⟨hnear, htie⟩ := f32_nearest h0 hlog hk w.toNat
      rw [f32Value_eq, f32Value_eq]
      exact ⟨hnear, fun heq hne => htie heq fun h => hne (BitVec.eq_of_toNat_eq h)⟩

end Sys2Proof.Machine
